-- ==== Sys2Proof/Word.lean ====
section
/-! DEFINITION. The words of the block: one abbreviation per port or register width (00_scope.md R3,
10_state.md R10, 30_encoding.md R38 to R40). Every value is unsigned (00_scope.md R4). -/

namespace Sys2Proof

/-- A message byte, `cmd_data` (R38). -/
abbrev Byte := BitVec 8

/-- A 32-bit parameter, working or data register (R10), and `rsp_value` (R40). -/
abbrev Word := BitVec 32

/-- The `width` operand and register: 6 bits, so that 33 to 63 can be presented and rejected (R10, R38). -/
abbrev Width := BitVec 6

/-- A count of hexadecimal digits: `W.outlen` (R10) and `rsp_outlen` (R40). -/
abbrev Outlen := BitVec 4

/-- The canonical command word `CMDW` (R39). -/
abbrev Cmdw := BitVec 114

end Sys2Proof
end

