-- ==== Sys2Proof/Syntax.lean ====
section
/-! DEFINITION. The commands of the block as syntax (30_encoding.md R41), the command ports they arrive
on (R38) and the pseudo-instructions of the assembler (R47). -/

namespace Sys2Proof

/-- The four commands, one constructor per row of spec/opcode_table.json, each with exactly the operands
it uses (R41). The operand order of `load` is the assembler's (R46). -/
inductive Instr where
  /-- LOAD (40_load.md R49). -/
  | load (width : Width) (poly init xorout : Word) (refin refout : Bool)
  /-- APPEND (41_append.md R54). -/
  | append (data : Byte)
  /-- FINISH (42_finish_reset.md R60). -/
  | finish
  /-- RESET (42_finish_reset.md R67). -/
  | reset
deriving DecidableEq, Repr

/-- The command ports other than `rst` and `cmd_valid` (R38), in the order of the fields of the command
word (R39). -/
structure Command where
  op : BitVec 2
  data : Byte
  width : Width
  refin : BitVec 1
  refout : BitVec 1
  poly : Word
  init : Word
  xorout : Word
deriving DecidableEq, Repr

/-- One sample of all ports from the host to the block (R38): what the host presents for one step. -/
structure Ports where
  rst : Bool
  cmdValid : Bool
  cmd : Command
deriving DecidableEq, Repr

/-- The pseudo-instructions of R47. Each stands for a command sequence and has no encoding of its own. -/
inductive Pseudo where
  | appendb (bytes : List Byte)
  | appends (text : List Char)
  | calc (width : Width) (poly init xorout : Word) (refin refout : Bool) (bytes : List Byte)
deriving DecidableEq, Repr

end Sys2Proof
end

