-- ==== Sys2Proof/Decode.lean ====
section
/-! DEFINITION. The command word (30_encoding.md R39), the decoder (R41 to R43) and the encoder (R46). The
ports are the normative interface and the word is their serialisation, so decoding works on the ports:
a word is first cut into them. -/

namespace Sys2Proof

/-- The fields of a command word (R39). -/
def Command.ofWord (w : Cmdw) : Command where
  op := w.extractLsb' 0 2
  data := w.extractLsb' 2 8
  width := w.extractLsb' 10 6
  refin := w.extractLsb' 16 1
  refout := w.extractLsb' 17 1
  poly := w.extractLsb' 18 32
  init := w.extractLsb' 50 32
  xorout := w.extractLsb' 82 32

/-- R39: `CMDW = op | data<<2 | width<<10 | refin<<16 | refout<<17 | poly<<18 | init<<50 | xorout<<82`. -/
def Command.word (c : Command) : Cmdw :=
  c.op.setWidth 114 ||| c.data.setWidth 114 <<< 2 ||| c.width.setWidth 114 <<< 10 |||
    c.refin.setWidth 114 <<< 16 ||| c.refout.setWidth 114 <<< 17 ||| c.poly.setWidth 114 <<< 18 |||
    c.init.setWidth 114 <<< 50 ||| c.xorout.setWidth 114 <<< 82

/-- A one-bit field read as a truth value: 1 is true, 0 is false (R43). -/
def flagOfBit (b : BitVec 1) : Bool := b == 1#1

def bitOfFlag (f : Bool) : BitVec 1 := if f then 1#1 else 0#1

/-- R41: `cmd_op` selects the command. All four codes are used, so decoding is total; a command's
operands come from the fields it uses and the others are ignored (R42). -/
def decodeCommand (c : Command) : Instr :=
  if c.op = 0b00#2 then
    .load c.width c.poly c.init c.xorout (flagOfBit c.refin) (flagOfBit c.refout)
  else if c.op = 0b01#2 then .append c.data
  else if c.op = 0b10#2 then .finish
  else .reset

def decode (w : Cmdw) : Instr := decodeCommand (Command.ofWord w)

/-- Why a string of bits is no command word. -/
inductive DecodeError where
  /-- A bit at or above position 114 is set: the command word has 114 bits and no more (R39). -/
  | bitsAboveWord
deriving DecidableEq, Repr

/-- The decoder on any bit string, given as the number it spells with bit 0 least significant (R39). The spec
gives the word no byte order, so none is invented (DESIGN CHOICE, safe: log 7). -/
def decodeNat (w : Nat) : Except DecodeError Instr :=
  if w < 2 ^ 114 then .ok (decode (BitVec.ofNat 114 w)) else .error .bitsAboveWord

/-- What the host asks of the decoder: the instruction it reads from the low `nbits` bits of `w`, every
bit above them 0. -/
def decodeTableWord (nbits w : Nat) : Option Instr :=
  match decodeNat (w % 2 ^ nbits) with
  | .ok i => some i
  | .error _ => none

/-- A command with every field 0 but its code. -/
def Command.bare (op : BitVec 2) : Command where
  op := op
  data := 0
  width := 0
  refin := 0
  refout := 0
  poly := 0
  init := 0
  xorout := 0

/-- The ports the assembler drives for a command: its own fields, and 0 in every ignored one (R42, R46). -/
def encodeCommand : Instr → Command
  | .load width poly init xorout refin refout =>
    { op := 0b00, data := 0, width := width, refin := bitOfFlag refin, refout := bitOfFlag refout,
      poly := poly, init := init, xorout := xorout }
  | .append data => { Command.bare 0b01 with data := data }
  | .finish => Command.bare 0b10
  | .reset => Command.bare 0b11

/-- The canonical command word of a command (R46). -/
def encode (i : Instr) : Cmdw := (encodeCommand i).word

/-- The port sample that presents a command: no reset, `cmd_valid = 1` (R38). -/
def present (i : Instr) : Ports where
  rst := false
  cmdValid := true
  cmd := encodeCommand i

end Sys2Proof
end

