-- ==== Sys2Proof/Config.lean ====
section
/-! DEFINITION. What an implementation fixes (00_scope.md R3) and the free values: constants without a
body, so that no proof can learn what they are. -/

namespace Sys2Proof.Config

/-- `MINWIDTH` of R3. -/
def minWidth : Nat := 3

/-- `MAXWIDTH` of R3. -/
def maxWidth : Nat := 32

/-- `STEPS` of R3: shift steps per byte. -/
def steps : Nat := 8

/-- `HEX_UPPER` of R3, value true by decision D21 (DEDUCED, unsafe: log 6). It touches the text of a result only. -/
def hexUpper : Bool := true

/-- FREE VALUE (log 4): what the `rsp_err` port carries while no response is available. The first argument is the
stream an instance draws from, the second how many values it has drawn; likewise for the next two. -/
opaque freeRspErr : Nat → Nat → BitVec 2

/-- FREE VALUE (log 4): what `rsp_value` carries outside the response of a successful FINISH (R40, U3). -/
opaque freeRspValue : Nat → Nat → Word

/-- FREE VALUE (log 4): what `rsp_outlen` carries outside the response of a successful FINISH (R40, U3). -/
opaque freeRspOutlen : Nat → Nat → Outlen

/-- OPEN (log 11): the host platform's native byte encoding of a text (43_host_software.md R76, U5). It is asked for
every text but the check string, whose bytes R76 fixes. -/
opaque nativeEncoding : String → List Byte

/-- FREE VALUE (log 17): what the host's `register` stores for an operand reduced to a negative number of bits, for
which the spec states no result (43_host_software.md R74, 90_conflicts.md C3). -/
opaque freeNormalized : BitVec 64 → Int → BitVec 64

/-- OPEN (log 11): whether the host's `register` reports `InvalidWidth` when both of its failures
apply (R74, N10, U12). -/
opaque registerReportsWidthFirst : Bool

end Sys2Proof.Config
end

