-- ==== Sys2Proof/Machine/State.lean ====
section
/-! DEFINITION. The state of one engine instance (10_state.md R10) and of its ports (30_encoding.md R38,
R40), as plain data, and its value after power-on reset (R26, 70_reset_and_hazards.md R93). -/

namespace Sys2Proof.Machine

/-- The parameter registers `P.*` (R14, R15): written together by a successful LOAD. -/
structure Params where
  width : Width
  polynomial : Word
  init : Word
  xorOut : Word
  refIn : Bool
  refOut : Bool
deriving DecidableEq, Repr

/-- The working registers `W.*` (R16 to R20). The spec lets a model store or recompute them (R22); they
are stored. -/
structure Work where
  outlen : Outlen
  polynomial : Word
  init : Word
  check : Word
  mask : Word
deriving DecidableEq, Repr

/-- Exactly the state R10 gives one engine instance, and no other. -/
structure Engine where
  configured : Bool
  P : Params
  W : Work
  crc : Word
deriving DecidableEq, Repr

/-- The error responses of the block (60_exceptions.md R81). -/
inductive ErrorKind where
  /-- LOAD with a width of 33 to 63 (R82). -/
  | invalidWidth
  /-- APPEND, FINISH or RESET before a successful LOAD (R83). -/
  | notConfigured
deriving DecidableEq, Repr

/-- The response to one command (R40). A value and a digit count exist only in the response of a
successful FINISH; the other responses have no such fields (93_implementation_defined.md U3). -/
inductive Response where
  /-- LOAD, APPEND or RESET done: `respond(OK, unspecified, unspecified)`. -/
  | ok
  /-- FINISH done: `respond(OK, value, W.outlen)` (42_finish_reset.md R64). -/
  | result (value : Word) (outlen : Outlen)
  /-- `raise E` (60_exceptions.md R84). -/
  | error (kind : ErrorKind)
deriving DecidableEq, Repr

/-- No step of this block faults: its errors are responses (R81, R84) and it has no traps (R89), so
there is no fault reason (DEDUCED, safe: log 13). -/
inductive Fault where
deriving DecidableEq, Repr

/-- Why a command has no meaning. -/
inductive Refusal where
  /-- Raised by an arm of `exec` for a command without a meaning; no arm does so. Safe: the model stops. -/
  | notModelled (mnemonic : String)
  /-- Raised by LOAD with `width` 0, 1 or 2: reserved, "the model must refuse" it (30_encoding.md R44,
  93_implementation_defined.md U1; DEDUCED, log 5). Safe: the model stops where the spec gives no meaning. -/
  | reservedWidth
deriving DecidableEq, Repr

/-- One engine instance with its ports. -/
structure State where
  /-- The architectural state of R10. -/
  engine : Engine
  /-- The response ports: the response of the last command presented, if one is available (R40). It stays until
  the next command or power-on reset (DEDUCED, unsafe: log 8). -/
  rsp : Option Response
  /-- MODEL'S OWN: the stream of free values the ports of this instance draw from. No step writes it, so instances
  with different streams show unrelated values (DESIGN CHOICE, safe but for runs compared from one state: log 19). -/
  stream : Nat
  /-- MODEL'S OWN: how many free values have been drawn (DESIGN CHOICE, safe for the values: log 4). -/
  draws : Nat
  /-- MODEL'S OWN: what the host will present on the command ports, one sample per step, oldest first
  (DESIGN CHOICE, safe: log 2). -/
  inputs : List Ports
deriving DecidableEq, Repr

/-- The engine after power-on reset: `configured = 0` (R93). Every other register is unspecified there;
zero is the model's choice (DESIGN CHOICE, unsafe: log 1) and no command reads it. -/
def Engine.reset : Engine where
  configured := false
  P := { width := 0, polynomial := 0, init := 0, xorOut := 0, refIn := false, refOut := false }
  W := { outlen := 0, polynomial := 0, init := 0, check := 0, mask := 0 }
  crc := 0

/-- After power-on reset no response is pending (R93); the host presents nothing (log 2). -/
def State.reset : State where
  engine := Engine.reset
  rsp := none
  stream := 0
  draws := 0
  inputs := []

end Sys2Proof.Machine
end

