-- ==== Sys2Proof/Machine/Ops.lean ====
section
/-! DEFINITION. The shared operations: responding to a command (30_encoding.md R40), raising an error
(60_exceptions.md R84), restarting the running register (70_reset_and_hazards.md R94), power-on reset
(R93), and the response ports as views of the response. There is no trap entry and no return from one
(R89, R90): `raise` is all that an error does. -/

namespace Sys2Proof.Machine

/-- What a command answers: the three outcomes of the host's interface, over this model's types. -/
abbrev Result := Host.Outcome State Fault Refusal

/-- `rsp_err` codes (R40): 1 `InvalidWidth`, 2 `NotConfigured`. -/
def ErrorKind.code : ErrorKind → BitVec 2
  | .invalidWidth => 1
  | .notConfigured => 2

/-- The response `respond(OK, unspecified, unspecified)`. The two open fields are drawn anew (log 4). -/
def respondOk (s : State) : State := { s with rsp := some .ok, draws := s.draws + 1 }

/-- The response `respond(OK, value, outlen)` of FINISH. -/
def respondResult (value : Word) (outlen : Outlen) (s : State) : State :=
  { s with rsp := some (.result value outlen) }

/-- `raise E` (R84): no state is written and the response carries the code of `E`; its value and digit count
are unspecified and drawn anew (log 4). -/
def raise (kind : ErrorKind) (s : State) : Result :=
  .next { s with rsp := some (.error kind), draws := s.draws + 1 }

/-- `crc <- W.init`, the one value every software reset of the running register writes (R94). -/
def Engine.restart (e : Engine) : Engine := { e with crc := e.W.init }

/-- Power-on reset (R93): the engine as after power-on and no response pending. What the host presents next
is not the block's to change (DESIGN CHOICE, safe: log 2), and the open response ports are drawn anew
(DESIGN CHOICE, safe for the values: log 4). -/
def powerOnReset (s : State) : State :=
  { State.reset with stream := s.stream, draws := s.draws + 1, inputs := s.inputs }

/-- The port `rsp_valid` (R40). -/
def State.rspValid (s : State) : Bool := s.rsp.isSome

/-- The port `rsp_err` (R40); a free value while no response is available (log 4),
of this instance's own stream (log 19). -/
def State.rspErr (s : State) : BitVec 2 :=
  match s.rsp with
  | some .ok => 0
  | some (.result _ _) => 0
  | some (.error kind) => kind.code
  | none => Config.freeRspErr s.stream s.draws

/-- The port `rsp_value` (R40); a free value outside the response of a successful FINISH (log 4),
of this instance's own stream (log 19). -/
def State.rspValue (s : State) : Word :=
  match s.rsp with
  | some (.result value _) => value
  | some .ok => Config.freeRspValue s.stream s.draws
  | some (.error _) => Config.freeRspValue s.stream s.draws
  | none => Config.freeRspValue s.stream s.draws

/-- The port `rsp_outlen` (R40); a free value outside the response of a successful FINISH (log 4),
of this instance's own stream (log 19). -/
def State.rspOutlen (s : State) : Outlen :=
  match s.rsp with
  | some (.result _ outlen) => outlen
  | some .ok => Config.freeRspOutlen s.stream s.draws
  | some (.error _) => Config.freeRspOutlen s.stream s.draws
  | none => Config.freeRspOutlen s.stream s.draws

end Sys2Proof.Machine
end

