-- ==== Sys2Proof/Machine/Flags.lean ====
section
/-! DEFINITION. The one status flag, `configured` (10_state.md R11). The block has no condition codes: the bit
tested by `W.check` is never latched (R27). -/

namespace Sys2Proof.Machine

/-- APPEND, FINISH and RESET respond `NotConfigured` when the flag is 0 and act otherwise
(60_exceptions.md R83). -/
def whenConfigured (s : State) (act : Result) : Result :=
  if s.engine.configured then act else raise .notConfigured s

end Sys2Proof.Machine
end

