-- ==== Sys2Proof/Machine/Prims.lean ====
section
/-! DEFINITION. The primitive functions of 00_scope.md R6 to R9, on unbounded naturals (R5). -/

namespace Sys2Proof.Machine

/-- R6: the low `n` bits of `v`, all higher bits dropped. -/
def norm (v n : Nat) : Nat := v % 2 ^ n

/-- R7: the low `n` bits of `v` in reverse order. The lowest bit becomes the highest of `n` bits, and the
rest of `v` is reversed below it. -/
def reverseBits (v : Nat) : Nat → Nat
  | 0 => 0
  | n + 1 => v % 2 * 2 ^ n + reverseBits (v / 2) n

/-- R8: the number of significant bits of `v`, the least `L` with `v < 2^L`. -/
def bitLengthOf (v : Nat) : Nat := if v = 0 then 0 else Nat.log2 v + 1

/-- R9: the number of hexadecimal digits that display `width` bits, `ceil(width/4)`. -/
def outLength (width : Nat) : Nat := (width + 3) / 4

end Sys2Proof.Machine
end

