-- ==== Sys2Proof/Machine/Operands.lean ====
section
/-! DEFINITION. How operands enter the block: the parameter registers captured by LOAD (40_load.md R51),
the working registers derived from them (10_state.md R16 to R20, 40_load.md R52) and the byte folded by
APPEND (20_memory.md R31). No operand is signed, scaled, shifted or split (30_encoding.md R43). -/

namespace Sys2Proof.Machine

/-- R51: the parameters as LOAD stores them, each of the three wide ones reduced to `width` bits. -/
def captureParams (width : Width) (poly init xorout : Word) (refin refout : Bool) : Params where
  width := width
  polynomial := BitVec.ofNat 32 (norm poly.toNat width.toNat)
  init := BitVec.ofNat 32 (norm init.toNat width.toNat)
  xorOut := BitVec.ofNat 32 (norm xorout.toNat width.toNat)
  refIn := refin
  refOut := refout

/-- The adjustment R17 and R18 apply to the polynomial and to the initial value: bit-reversed for reflected
input, left-aligned to a byte for a width below 8, else as it is. -/
def adjust (p : Params) (v : Word) : Word :=
  if p.refIn then BitVec.ofNat 32 (reverseBits v.toNat p.width.toNat)
  else if p.width.toNat < 8 then BitVec.ofNat 32 (v.toNat <<< (8 - p.width.toNat))
  else v

/-- R19: the mask of the one bit that decides the feedback of a shift step. -/
def checkOf (p : Params) : Word :=
  if p.refIn then 1
  else if p.width.toNat ≤ 8 then 0x80
  else BitVec.ofNat 32 (2 ^ (p.width.toNat - 1))

/-- R20: the bits of the register. -/
def maskOf (p : Params) : Word :=
  if p.width.toNat ≤ 8 then 0xFF else BitVec.ofNat 32 (2 ^ p.width.toNat - 1)

/-- R52: the working registers, derived from the parameter registers. -/
def deriveWork (p : Params) : Work where
  outlen := BitVec.ofNat 4 (outLength p.width.toNat)
  polynomial := adjust p p.polynomial
  init := adjust p p.init
  check := checkOf p
  mask := maskOf p

/-- The value APPEND exclusive-ors into the register for a byte (R31, 41_append.md R55 step 1). -/
def foldOf (e : Engine) (b : Byte) : Nat :=
  if e.P.width.toNat ≤ 8 then b.toNat
  else if e.P.refIn then b.toNat &&& e.W.mask.toNat
  else b.toNat <<< (e.P.width.toNat - 8) &&& e.W.mask.toNat

end Sys2Proof.Machine
end

