-- ==== Sys2Proof/Machine/Append.lean ====
section
/-! DEFINITION. APPEND (41_append.md R54 to R59): fold one byte, eight shift steps, limit the register. -/

namespace Sys2Proof.Machine

/-- One shift step of R55, on unbounded naturals: the test is made on the value before the shift. -/
def shiftStep (e : Engine) (c : Nat) : Nat :=
  let shifted := if e.P.refIn then c >>> 1 else c <<< 1
  if c &&& e.W.check.toNat ≠ 0 then shifted ^^^ e.W.polynomial.toNat else shifted

/-- R55 steps 1 and 2: the folded value after its eight shift steps, not yet limited. -/
def appendRaw (e : Engine) (b : Byte) : Nat :=
  (shiftStep e)^[Config.steps] (e.crc.toNat ^^^ foldOf e b)

/-- R55 step 3: the value APPEND writes to `crc`, a 32-bit register (R21; DEDUCED, safe: log 12). -/
def appendedCrc (e : Engine) (b : Byte) : Word :=
  BitVec.ofNat 32 (appendRaw e b &&& e.W.mask.toNat)

/-- The engine after an APPEND: only `crc` is written (R54). -/
def appendedEngine (e : Engine) (b : Byte) : Engine := { e with crc := appendedCrc e b }

/-- APPEND (R54, R55). -/
def execAppend (data : Byte) (s : State) : Result :=
  whenConfigured s (.next (respondOk { s with engine := appendedEngine s.engine data }))

end Sys2Proof.Machine
end

