-- ==== Sys2Proof/Machine/FinishReset.lean ====
section
/-! DEFINITION. FINISH (42_finish_reset.md R60 to R66) and RESET (R67). -/

namespace Sys2Proof.Machine

/-- R61: the register with the sub-byte alignment undone. -/
def unalignedCrc (e : Engine) : Nat :=
  if e.P.width.toNat < 8 ∧ e.P.refIn = false then e.crc.toNat >>> (8 - e.P.width.toNat)
  else e.crc.toNat

/-- R62: the asymmetric branch. The number of bits reversed depends on the value; this is on purpose and not
to be corrected to a `width`-bit reversal (93_implementation_defined.md U6). -/
def asymmetricValue (e : Engine) (c : Nat) : Nat :=
  let m := c &&& e.W.mask.toNat
  reverseBits m (bitLengthOf m) ^^^ e.P.xorOut.toNat

/-- R63: every other combination. Nothing is reversed (U7). -/
def plainValue (e : Engine) (c : Nat) : Nat := (c ^^^ e.P.xorOut.toNat) &&& e.W.mask.toNat

/-- R60: the value FINISH reports. -/
def finishValue (e : Engine) : Nat :=
  if e.P.refIn = false ∧ e.P.refOut = true then asymmetricValue e (unalignedCrc e)
  else plainValue e (unalignedCrc e)

/-- FINISH: the response carries the value and the digit count (R64), and the running register is restarted
(R66). -/
def execFinish (s : State) : Result :=
  whenConfigured s
    (.next (respondResult (BitVec.ofNat 32 (finishValue s.engine)) s.engine.W.outlen
      { s with engine := s.engine.restart }))

/-- RESET (R67): the running register is restarted, without a result. -/
def execReset (s : State) : Result :=
  whenConfigured s (.next (respondOk { s with engine := s.engine.restart }))

end Sys2Proof.Machine
end

