-- ==== Sys2Proof/WellFormed.lean ====
section
/-! DEFINITION. Which commands and pseudo-instructions the spec gives a meaning. The types already hold
every operand inside its port; what is left to check is the reserved widths of LOAD (30_encoding.md
R44) and the characters APPENDS allows (R47). -/

namespace Sys2Proof

/-- A LOAD width of 0, 1 or 2 is reserved (R44): the spec gives it no meaning. Widths 33 to 63 are illegal,
not reserved: they have the defined response `InvalidWidth`. -/
def reservedWidth (width : Width) : Bool := decide (width.toNat < Config.minWidth)

/-- The widths for which LOAD succeeds (R44, 40_load.md R51). -/
def legalWidth (width : Width) : Bool :=
  decide (Config.minWidth ≤ width.toNat) && decide (width.toNat ≤ Config.maxWidth)

def Instr.wellFormed : Instr → Bool
  | .load width _ _ _ _ _ => !reservedWidth width
  | .append _ => true
  | .finish => true
  | .reset => true

/-- The characters APPENDS allows: 0x20 to 0x7E (R47). -/
def printableChar (c : Char) : Bool := decide (0x20 ≤ c.toNat) && decide (c.toNat ≤ 0x7E)

def Pseudo.wellFormed : Pseudo → Bool
  | .appendb _ => true
  | .appends text => text.all printableChar
  | .calc width _ _ _ _ _ _ => !reservedWidth width

end Sys2Proof
end

