-- ==== Sys2Proof/Machine/Load.lean ====
section
/-! DEFINITION. LOAD (40_load.md R49 to R53). -/

namespace Sys2Proof.Machine

/-- The engine a successful LOAD leaves (R51, R52): a function of the operands alone, since every register is
written. -/
def loadedEngine (p : Params) : Engine where
  configured := true
  P := p
  W := deriveWork p
  crc := (deriveWork p).init

/-- LOAD. Width gate (R50): above 32 it raises `InvalidWidth`, below 3 the width is reserved and the command
is refused (30_encoding.md R44); else the engine is configured (R51, R52). -/
def execLoad (width : Width) (poly init xorout : Word) (refin refout : Bool) (s : State) : Result :=
  if Config.maxWidth < width.toNat then raise .invalidWidth s
  else if reservedWidth width then .refused .reservedWidth
  else
    .next (respondOk
      { s with engine := loadedEngine (captureParams width poly init xorout refin refout) })

end Sys2Proof.Machine
end

