-- ==== Sys2Proof/Machine/Dispatch.lean ====
section
/-! DEFINITION. One arm per command (30_encoding.md R41), each a direct call of its meaning. -/

namespace Sys2Proof.Machine

def exec (i : Instr) (s : State) : Host.Outcome State Fault Refusal :=
  match i with
  | .load width poly init xorout refin refout => Sys2Proof.Machine.execLoad width poly init xorout refin refout s
  | .append data => Sys2Proof.Machine.execAppend data s
  | .finish => Sys2Proof.Machine.execFinish s
  | .reset => Sys2Proof.Machine.execReset s

end Sys2Proof.Machine
end

