-- ==== Sys2Proof/Machine/Transact.lean ====
section
/-! DEFINITION. One transaction at the ports (30_encoding.md R37, R38): what a step does with the sample the
host presents. -/

namespace Sys2Proof.Machine

/-- `rst` performs a power-on reset (70_reset_and_hazards.md R93) and takes precedence over a command
presented with it (DESIGN CHOICE, unsafe: log 3). Else `cmd_valid = 1` presents a command, which is decoded and performed; with
`cmd_valid = 0` nothing is decoded and nothing changes (R38, R45). -/
def transact (p : Ports) (s : State) : Result :=
  if p.rst then .next (powerOnReset s)
  else if p.cmdValid then exec (decodeCommand p.cmd) s
  else .next s

/-- The port sample that presents the command word whose low `nbits` bits are those of `w`. The ports carry 114
bits (R39), so a bit of `w` at or above position 114 reaches no port: it is cut off here, where `decodeNat` rejects
the bit string (DESIGN CHOICE, unsafe: log 16). -/
def presentedWord (nbits w : Nat) : Ports where
  rst := false
  cmdValid := true
  cmd := Command.ofWord (BitVec.ofNat 114 (w % 2 ^ nbits))

end Sys2Proof.Machine
end

