-- ==== Sys2Proof/Machine/Step.lean ====
section
/-! DEFINITION. The step of one engine instance: one sample of the command ports per step, in the order the
host presents them (20_memory.md R34, 70_reset_and_hazards.md R96). -/

namespace Sys2Proof.Machine

/-- With nothing presented the block holds its state (R38, 60_exceptions.md R92); else the oldest sample is
taken off and acted on. -/
def step (s : State) : Host.Outcome State Fault Refusal :=
  match s.inputs with
  | [] => .next s
  | p :: rest => transact p { s with inputs := rest }

/-- `s` with that command word presented next (log 2); bits beyond the 114 of a command word are cut off (log 16). -/
def State.withFetchWord (s : State) (nbits w : Nat) : State :=
  { s with inputs := presentedWord nbits w :: s.inputs }

end Sys2Proof.Machine
end

