-- ==== Sys2Proof/Machine/Format.lean ====
section
/-! DEFINITION. The textual result (42_finish_reset.md R65, 20_memory.md R32): a function of the number and the
digit count that FINISH responds with. -/

namespace Sys2Proof.Machine

/-- The hexadecimal digit of `d < 16`; the case of `A` to `F` is a parameter (log 6). -/
def hexDigit (upper : Bool) (d : Nat) : Char :=
  if d < 10 then Char.ofNat (0x30 + d)
  else if upper then Char.ofNat (0x41 + (d - 10))
  else Char.ofNat (0x61 + (d - 10))

/-- Digit `j` is that of `value[4*(outlen-1-j)+3 : 4*(outlen-1-j)]`, most significant first (R65). -/
def resultDigits (upper : Bool) (value outlen : Nat) : List Char :=
  (List.range outlen).map fun j => hexDigit upper (value >>> (4 * (outlen - 1 - j)) % 16)

/-- `"0x" ++ d(0) ++ … ++ d(outlen - 1)` (R65). -/
def resultText (value : Word) (outlen : Outlen) : String :=
  String.ofList ('0' :: 'x' :: resultDigits Config.hexUpper value.toNat outlen.toNat)

/-- The text the host makes of a response: only a successful FINISH has one. -/
def Response.text : Response → Option String
  | .ok => none
  | .result value outlen => some (resultText value outlen)
  | .error _ => none

end Sys2Proof.Machine
end

