-- ==== Sys2Proof/Machine/Asm.lean ====
section
/-! DEFINITION. The assembler notation (30_encoding.md R46), the expansion of the pseudo-instructions (R47) and
the disassembly (R48). Text is handled as a list of characters. What R46 leaves open (blanks, quotes, case of
digits) is a DESIGN CHOICE, unsafe: log 10. -/

namespace Sys2Proof.Machine

/-! ### Pseudo-instructions (R47) -/

/-- `APPENDB`: one APPEND per byte, first byte first. -/
def appendAll (bytes : List Byte) : List Instr := bytes.map Instr.append

/-- The ASCII code of a character. -/
def asciiByte (c : Char) : Byte := BitVec.ofNat 8 c.toNat

/-- R47. APPENDS of a text with a character outside 0x20 to 0x7E has no expansion (U5). -/
def expandPseudo : Pseudo → Option (List Instr)
  | .appendb bytes => some (appendAll bytes)
  | .appends text =>
    if text.all printableChar then some (appendAll (text.map asciiByte)) else none
  | .calc width poly init xorout refin refout bytes =>
    some (.load width poly init xorout refin refout :: (appendAll bytes ++ [.finish]))

/-! ### Reading a line (R46) -/

def isBlank (c : Char) : Bool := c == ' ' || c == '\t'

def skipBlanks (cs : List Char) : List Char := cs.dropWhile isBlank

def trimBlanks (cs : List Char) : List Char := (skipBlanks (skipBlanks cs).reverse).reverse

/-- A `;` starts a comment. -/
def dropComment (cs : List Char) : List Char := cs.takeWhile (· != ';')

def digitValue (c : Char) : Option Nat :=
  if '0' ≤ c ∧ c ≤ '9' then some (c.toNat - 0x30)
  else if 'A' ≤ c ∧ c ≤ 'F' then some (c.toNat - 0x41 + 10)
  else if 'a' ≤ c ∧ c ≤ 'f' then some (c.toNat - 0x61 + 10)
  else none

/-- The number a digit string spells in a base, after a prefix that spells `acc`. -/
def readDigits (base : Nat) : Nat → List Char → Option Nat
  | acc, [] => some acc
  | acc, c :: cs =>
    match digitValue c with
    | some d => if d < base then readDigits base (acc * base + d) cs else none
    | none => none

/-- Numbers are decimal or `0x` hexadecimal. -/
def readNumber : List Char → Option Nat
  | [] => none
  | '0' :: 'x' :: c :: cs => readDigits 16 0 (c :: cs)
  | c :: cs => readDigits 10 0 (c :: cs)

/-- The pieces of a text between commas. -/
def splitCommas : List Char → List (List Char)
  | [] => [[]]
  | c :: cs =>
    match splitCommas cs with
    | [] => [[c]]
    | piece :: pieces => if c == ',' then [] :: piece :: pieces else (c :: piece) :: pieces

/-- The operands of a line as written: none, or pieces separated by commas. -/
def readOperands (cs : List Char) : List (List Char) :=
  if trimBlanks cs = [] then [] else (splitCommas cs).map trimBlanks

/-- A number as a field of `n` bits. R46 is silent on a number too large for its field (`APPEND 256`); the line is
rejected and no bit is dropped (DESIGN CHOICE, safe: log 15). -/
def fitBits (n v : Nat) : Option (BitVec n) := if v < 2 ^ n then some (BitVec.ofNat n v) else none

/-- A number operand of a field of `n` bits. -/
def readField (n : Nat) (operand : List Char) : Option (BitVec n) :=
  (readNumber operand).bind (fitBits n)

/-- Booleans are `0`/`1` (R46): exactly one of these two characters. Another spelling of the same number (`0x1`, `01`)
is not one of them, and the line is rejected (DESIGN CHOICE, safe: log 18). -/
def readFlag (operand : List Char) : Option Bool :=
  if operand = ['0'] then some false else if operand = ['1'] then some true else none

def readLoad : List (List Char) → Option (Instr × List (List Char))
  | width :: poly :: init :: xorout :: refin :: refout :: rest => do
    let width ← readField 6 width
    let poly ← readField 32 poly
    let init ← readField 32 init
    let xorout ← readField 32 xorout
    let refin ← readFlag refin
    let refout ← readFlag refout
    return (.load width poly init xorout refin refout, rest)
  | _ => none

def readBytes (operands : List (List Char)) : Option (List Byte) := operands.mapM (readField 8)

/-- `"text"` with nothing but blanks or a comment after it; the text ends at the next quote. -/
def readQuoted (cs : List Char) : Option (List Char) :=
  match skipBlanks cs with
  | [] => none
  | q :: rest =>
    let text := rest.takeWhile (· != '"')
    let after := rest.dropWhile (· != '"')
    if q == '"' && after != [] && trimBlanks (dropComment (after.drop 1)) == [] then some text
    else none

/-- The commands a mnemonic with operands stands for (R46, R47). -/
def readCommand (mnemonic : List Char) (operands : List (List Char)) : Option (List Instr) :=
  if mnemonic = "LOAD".toList then
    match readLoad operands with
    | some (i, []) => some [i]
    | _ => none
  else if mnemonic = "APPEND".toList then
    match operands with
    | [v] => (readField 8 v).map fun b => [.append b]
    | _ => none
  else if mnemonic = "FINISH".toList then if operands = [] then some [.finish] else none
  else if mnemonic = "RESET".toList then if operands = [] then some [.reset] else none
  else if mnemonic = "APPENDB".toList then (readBytes operands).map appendAll
  else if mnemonic = "CALC".toList then do
    let (load, rest) ← readLoad operands
    let bytes ← readBytes rest
    return load :: (appendAll bytes ++ [.finish])
  else none

/-- One line of R46: one command, or a blank or comment line, which stands for no command. -/
def readLine (line : List Char) : Option (List Instr) :=
  let body := skipBlanks line
  let mnemonic := body.takeWhile Char.isUpper
  let rest := body.dropWhile Char.isUpper
  if trimBlanks (dropComment body) = [] then some []
  else if rest.head?.any fun c => !isBlank c && c != ';' then none
  else if mnemonic = "APPENDS".toList then
    (readQuoted rest).bind fun text => expandPseudo (.appends text)
  else readCommand mnemonic (readOperands (dropComment rest))

/-- A program text, one command per line. -/
def readProgram (lines : List (List Char)) : Option (List Instr) :=
  (lines.mapM readLine).map List.flatten

/-! ### Disassembly (R48) -/

/-- A number in `0x` notation without leading zeros. -/
def hexText (v : Word) : List Char :=
  let digits := (resultDigits true v.toNat 8).dropWhile (· == '0')
  '0' :: 'x' :: if digits = [] then ['0'] else digits

/-- A number below 100 in decimal. -/
def decimalText (v : Nat) : List Char :=
  if v < 10 then [hexDigit true v] else [hexDigit true (v / 10), hexDigit true (v % 10)]

def flagText (f : Bool) : List Char := if f then ['1'] else ['0']

/-- A command in the notation of R46: its mnemonic and the fields it uses. -/
def printInstr : Instr → List Char
  | .load width poly init xorout refin refout =>
    "LOAD ".toList ++ List.intercalate [',', ' ']
      [decimalText width.toNat, hexText poly, hexText init, hexText xorout, flagText refin,
        flagText refout]
  | .append data => "APPEND ".toList ++ hexText (data.setWidth 32)
  | .finish => "FINISH".toList
  | .reset => "RESET".toList

/-- R48: a command word is printed from its code, with the fields that command uses. -/
def disassemble (w : Cmdw) : List Char := printInstr (decode w)

end Sys2Proof.Machine
end

