-- ==== Sys2Proof/Machine/Sequence.lean ====
section
/-! DEFINITION. Sequences of transactions on one instance (20_memory.md R34), the CALC sequence with the host's
stop on an error (30_encoding.md R47), and any number of independent instances side by side
(60_exceptions.md R91). -/

namespace Sys2Proof.Machine

/-- Port samples acted on one after another, each completely before the next (R34). -/
def performAll : List Ports → State → Result
  | [], s => .next s
  | p :: ps, s =>
    match transact p s with
    | .next t => performAll ps t
    | .fault r => .fault r
    | .refused r => .refused r

/-- Commands presented one after another. -/
def performCommands (is : List Instr) : State → Result := performAll (is.map present)

/-- R47: a LOAD and what follows it. If the LOAD responds with an error the host stops and issues none of the
rest. -/
def performCalc (load : Instr) (rest : List Instr) (s : State) : Result :=
  match transact (present load) s with
  | .next t =>
    match t.rsp with
    | some (.error _) => .next t
    | _ => performCommands rest t
  | .fault r => .fault r
  | .refused r => .refused r

/-- R91: any number of instances, each with its own complete copy of state and ports (DEDUCED, safe: log 9). -/
structure System where
  instances : List State
deriving DecidableEq, Repr

/-- `n` instances after power-on reset: all start alike (R91, R93), each with a stream of free values of its own
(log 19). -/
def System.reset (n : Nat) : System where
  instances := (List.range n).map fun k => { State.reset with stream := k }

/-- The host presents a sample on the ports of instance `k`. Without such an instance there are no such ports
and nothing happens. -/
def System.transact (k : Nat) (p : Ports) (sys : System) : Host.Outcome System Fault Refusal :=
  match sys.instances[k]? with
  | none => .next sys
  | some s =>
    match Sys2Proof.Machine.transact p s with
    | .next t => .next { instances := sys.instances.set k t }
    | .fault r => .fault r
    | .refused r => .refused r

/-- A schedule of samples, each addressed to an instance, in the order the hosts present them. -/
def System.performAll : List (Nat × Ports) → System → Host.Outcome System Fault Refusal
  | [], sys => .next sys
  | (k, p) :: sched, sys =>
    match System.transact k p sys with
    | .next sys' => System.performAll sched sys'
    | .fault r => .fault r
    | .refused r => .refused r

/-- The samples of a schedule addressed to instance `k`, in order. -/
def samplesFor (k : Nat) (sched : List (Nat × Ports)) : List Ports :=
  (sched.filter fun entry => entry.1 == k).map Prod.snd

end Sys2Proof.Machine
end

