-- ==== Sys2Proof/Machine/HostSoftware.lean ====
section
/-! DEFINITION. The software around the block (43_host_software.md R69 to R80): not hardware (00_scope.md
section 2), kept so that the source's operations can be read as command sequences. It changes no state of the
block but through commands. Open points are in log 11 (DESIGN CHOICE, safe); the catalogue's tuples are in no source. -/

namespace Sys2Proof.Machine

/-- The tuple of R70 and R74: `width` is typed `int` by the source, and `polynomial`, `init` and `xorOut` `uint64`.
A width below 3, a negative one too, is not rejected by `register` (90_conflicts.md C3). -/
structure AlgorithmParameters where
  width : Int
  polynomial : BitVec 64
  init : BitVec 64
  xorOut : BitVec 64
  refIn : Bool
  refOut : Bool
deriving DecidableEq, Repr

/-- The three error kinds of the source (60_exceptions.md R81, R85). They are the host's; the block never
responds with the last two. -/
inductive HostError where
  | invalidWidth
  | duplicateName
  | unknownAlgorithm
deriving DecidableEq, Repr

/-- R71: a finite map from name to tuple, as a list without repeated names, in order of registration. There is
no removal. -/
abbrev Registry := List (String × AlgorithmParameters)

/-- R75: `lookup` fails with `UnknownAlgorithm` when the name is absent. -/
def lookupAlgorithm (reg : Registry) (name : String) : Except HostError AlgorithmParameters :=
  match reg.lookup name with
  | some p => .ok p
  | none => .error .unknownAlgorithm

/-- R72: true iff `name` is a registered key. -/
def existsAlgorithm (reg : Registry) (name : String) : Bool := (reg.lookup name).isSome

/-- R73: the registered names, sorted; the collation is not stated (N9) and is an argument. -/
def registeredAlgorithms (le : String → String → Bool) (reg : Registry) : List String :=
  (reg.map Prod.fst).insertionSort (fun a b => le a b = true)

/-- Reduction of a `uint64` operand to `width` bits (R74; the normalisation of 40_load.md R51). For a negative width
the spec states no result: a free value (DESIGN CHOICE, safe: log 17). -/
def normalize (v : BitVec 64) (width : Int) : BitVec 64 :=
  if width < 0 then Config.freeNormalized v width else BitVec.ofNat 64 (norm v.toNat width.toNat)

/-- R74: check, then insert the normalised tuple; no side effect on failure. Which failure is reported when both
apply is open (N10). -/
def registerAlgorithm (reg : Registry) (name : String) (p : AlgorithmParameters) :
    Except HostError Registry :=
  if Config.maxWidth < p.width ∧
      (Config.registerReportsWidthFirst = true ∨ existsAlgorithm reg name = false) then
    .error .invalidWidth
  else if existsAlgorithm reg name then .error .duplicateName
  else
    .ok (reg ++ [(name, { p with
      polynomial := normalize p.polynomial p.width
      init := normalize p.init p.width
      xorOut := normalize p.xorOut p.width })])

/-- R71: the registry is populated by repeated calls of `register`. When one of the calls fails the seeding ends there
with its error and gives no registry, which the spec does not say (DESIGN CHOICE, safe: log 20). -/
def seedRegistry (catalogue : List (String × AlgorithmParameters)) : Except HostError Registry :=
  catalogue.foldlM (fun reg entry => registerAlgorithm reg entry.1 entry.2) []

/-- The two forms of the operand `data` (R76, R79): a string or a byte buffer. -/
inductive HostData where
  | text (string : String)
  | buffer (bytes : List Byte)
deriving DecidableEq, Repr

/-- The check string, the one text whose bytes the source fixes: its ASCII codes (R76). -/
def checkString : String := "123456789"

/-- The bytes of a text: the check string has its ASCII codes, and every other text those of its native encoding,
which is open (R76, U5; log 11). -/
def textBytes (text : String) : List Byte :=
  if text = checkString then checkString.toList.map asciiByte else Config.nativeEncoding text

/-- The message bytes of an operand (R76, R77). -/
def HostData.bytes : HostData → List Byte
  | .text string => textBytes string
  | .buffer bytes => bytes

/-- `append(data)` as commands (R76, R77): one APPEND per byte, first byte first. -/
def appendData (data : HostData) : List Instr := appendAll data.bytes

/-- The LOAD with a tuple's six fields (R78); the host drops bits 32 to 63 of the operands (30_encoding.md
R38). A negative width cannot be presented on an unsigned field (90_conflicts.md C3), so such a tuple has no LOAD
(DEDUCED, safe: log 17). -/
def loadOf (p : AlgorithmParameters) : Option Instr :=
  if p.width < 0 then none
  else some (.load (BitVec.ofNat 6 p.width.toNat) (p.polynomial.setWidth 32) (p.init.setWidth 32)
    (p.xorOut.setWidth 32) p.refIn p.refOut)

/-- R78: `initialize(name)` fails when the name is unknown, and issues one LOAD otherwise, if the tuple has one. -/
def initializeEngine (reg : Registry) (name : String) : Except HostError (Option Instr) :=
  (lookupAlgorithm reg name).map loadOf

/-- R79: what `calculate(name, data)` issues after its LOAD. -/
def messageCommands (data : HostData) : List Instr := appendData data ++ [.finish]

/-- R79: the commands of `calculate(name, data)`; `none` for a tuple that cannot be presented (log 17). -/
def calculateCommands (reg : Registry) (name : String) (data : HostData) :
    Except HostError (Option (List Instr)) :=
  (initializeEngine reg name).map fun load? => load?.map fun load => load :: messageCommands data

/-- The text a run of commands ends with, if the block gave one. -/
def resultOf : Result → Option String
  | .next t => t.rsp.bind Response.text
  | .fault _ => none
  | .refused _ => none

/-- R79: `calculate(name, data)` on an engine instance: the text of the FINISH response, if the block gave
one. -/
def calculateText (reg : Registry) (name : String) (data : HostData) (s : State) :
    Except HostError (Option String) :=
  (initializeEngine reg name).map fun load? =>
    load?.bind fun load => resultOf (performCalc load (messageCommands data) s)

end Sys2Proof.Machine
end

