-- ==== Sys2Proof/Safety.lean ====
section
/-! DEFINITION. The terms claims are made in: the invariant of a configured engine (10_state.md R15, R22 to
R25), what a standing response satisfies (42_finish_reset.md R64, R65), and which inputs are safe
(30_encoding.md R44). -/

namespace Sys2Proof.Machine

/-- Legal parameter registers (R15). -/
abbrev Params.Legal (p : Params) : Prop :=
  legalWidth p.width = true ∧ p.polynomial.toNat < 2 ^ p.width.toNat ∧
    p.init.toNat < 2 ^ p.width.toNat ∧ p.xorOut.toNat < 2 ^ p.width.toNat

/-- R25: a sub-byte register of non-reflected input stays aligned to bit 7; a reflected register stays below
`2^width`. -/
abbrev Params.Aligned (p : Params) (c : Nat) : Prop :=
  (p.refIn = false → p.width.toNat < 8 → c % 2 ^ (8 - p.width.toNat) = 0) ∧
    (p.refIn = true → c < 2 ^ p.width.toNat)

/-- A value `crc` may hold at a command boundary under these parameters (R24, R25). -/
abbrev Params.Holds (p : Params) (c : Nat) : Prop :=
  c ≤ (maskOf p).toNat ∧ p.Aligned c

/-- At every command boundary a configured engine has legal parameters (R15), working registers that are the
functions of them R16 to R20 give (R22), and a `crc` of the shape R24 and R25 give. -/
abbrev Engine.Inv (e : Engine) : Prop :=
  e.configured = true → e.P.Legal ∧ e.W = deriveWork e.P ∧ e.P.Holds e.crc.toNat

/-- A result on the response ports fits its digits (R65) and has 1 to 8 of them (R40). -/
def Response.fits : Response → Bool
  | .ok => true
  | .result value outlen =>
    decide (1 ≤ outlen.toNat) && decide (outlen.toNat ≤ 8) && decide (value.toNat < 16 ^ outlen.toNat)
  | .error _ => true

/-- The invariant of a state: the engine's, and that of a standing response. -/
abbrev State.Inv (s : State) : Prop :=
  s.engine.Inv ∧ ∀ r ∈ s.rsp, r.fits = true

/-- The product over GF(2) of `m` by a quotient of eight bits. -/
def quotientTimes (q m : Nat) : Nat :=
  (List.range 8).foldl (fun acc i => if q.testBit i then acc ^^^ (m <<< i) else acc) 0

end Sys2Proof.Machine

namespace Sys2Proof

/-- A sample the model has a meaning for: anything but the presentation of a LOAD of reserved width (R44). -/
abbrev Ports.Safe (p : Ports) : Prop :=
  p.rst = false → p.cmdValid = true → (decodeCommand p.cmd).wellFormed = true

end Sys2Proof
end

