-- ==== Sys2Proof/Certificates/Slice0/Obligations.lean ====
section
/-! DEFINITION. The statements for the provers, from the numbered rules of spec/. Each docstring names the rule;
where a statement rests on a choice of the model it names the log entry. -/

open Sys2Proof Sys2Proof.Machine

/-! ### Encoding (30_encoding.md) -/

/-- R46: the words the rule writes out, and the two operand-less words, decode to their commands. -/
def Obligations.DecodeReadsTheWordsOfTheSpec : Prop :=
  decode 0x1C2000#114 = .load 8 0x07 0x00 0x00 false false ∧
    decode 0xC5#114 = .append 0x31 ∧ decode 0x2#114 = .finish ∧ decode 0x3#114 = .reset

/-- R39, R41, R46: decoding the canonical word of a command gives the command back, for all commands. -/
def Obligations.DecodeInvertsEncode : Prop :=
  ∀ i : Instr, decode (encode i) = i

/-- R39: the command word as the number its formula gives, and the ports and the word determine each other. -/
def Obligations.CommandWordSerialisesThePorts : Prop :=
  (∀ c : Command, c.word.toNat =
      (c.op.toNat ||| c.data.toNat <<< 2 ||| c.width.toNat <<< 10 ||| c.refin.toNat <<< 16 |||
        c.refout.toNat <<< 17 ||| c.poly.toNat <<< 18 ||| c.init.toNat <<< 50 |||
        c.xorout.toNat <<< 82)) ∧
    (∀ c : Command, Command.ofWord c.word = c) ∧ ∀ w : Cmdw, (Command.ofWord w).word = w

/-- R42: two port samples that agree on the code and on the fields its command uses are acted on alike, and the
assembler writes 0 in every ignored field. -/
def Obligations.UnusedFieldsAreIgnored : Prop :=
  (∀ (c d : Command) (s : State), c.op = d.op →
      (c.op = 0b00 → c.width = d.width ∧ c.refin = d.refin ∧ c.refout = d.refout ∧
        c.poly = d.poly ∧ c.init = d.init ∧ c.xorout = d.xorout) →
      (c.op = 0b01 → c.data = d.data) →
      transact ⟨false, true, c⟩ s = transact ⟨false, true, d⟩ s) ∧
    (∀ w p n x ri ro, (encodeCommand (.load w p n x ri ro)).data = 0) ∧
    (∀ b, encodeCommand (.append b) = ⟨0b01, b, 0, 0, 0, 0, 0, 0⟩) ∧
    encodeCommand .finish = ⟨0b10, 0, 0, 0, 0, 0, 0, 0⟩ ∧
    encodeCommand .reset = ⟨0b11, 0, 0, 0, 0, 0, 0, 0⟩

/-- R48: encode after decode yields the canonical word, in which the ignored fields are 0, and it prints as the
original does. -/
def Obligations.EncodeAfterDecodeIsCanonical : Prop :=
  ∀ w : Cmdw,
    Command.ofWord (encode (decode w)) =
      (let c := Command.ofWord w
       if c.op = 0b00 then { c with data := 0 }
       else if c.op = 0b01 then { Command.bare 0b01 with data := c.data }
       else Command.bare c.op) ∧
    disassemble (encode (decode w)) = disassemble w

/-- Log 7: a bit string is read as a command exactly when it sets no bit at or above position 114. -/
def Obligations.LongerBitStringsAreRejected : Prop :=
  ∀ w : Nat, (w < 2 ^ 114 → decodeNat w = .ok (decode (BitVec.ofNat 114 w))) ∧
    (2 ^ 114 ≤ w → decodeNat w = .error .bitsAboveWord)

/-- R46, R48: the printed form of every command reads back as that command (log 10 for the notation). -/
def Obligations.PrintedCommandsReadBack : Prop :=
  ∀ i : Instr, readLine (printInstr i) = some [i]

/-! ### The step and its inputs (R34, R37, R38, R93) -/

/-- R37, R38: a step with a command presented performs the decoded command (log 2), and a command word the host
places is the one the next step runs. -/
def Obligations.StepRunsTheDecodedCommand : Prop :=
  (∀ (s : State) (p : Ports) (rest : List Ports), s.inputs = p :: rest → p.rst = false →
      p.cmdValid = true → step s = exec (decodeCommand p.cmd) { s with inputs := rest }) ∧
    ∀ (s : State) (nbits w : Nat) (i : Instr), decodeTableWord nbits w = some i →
      step (s.withFetchWord nbits w) = exec i s

/-- R38: with `cmd_valid = 0` the block does nothing and its state is unchanged; likewise when the host presents
nothing (log 2). That the response stays on its ports over such a step is the model's choice (log 8, DEDUCED). -/
def Obligations.IdleStepsChangeNothing : Prop :=
  (∀ s : State, s.inputs = [] → step s = .next s) ∧
    ∀ (s : State) (p : Ports) (rest : List Ports), s.inputs = p :: rest → p.rst = false →
      p.cmdValid = false → step s = .next { s with inputs := rest }

/-- R93: after power-on reset `configured = 0` and no response is pending, and the first command that can succeed
is LOAD. That `rst` wins over a command presented with it is log 3. -/
def Obligations.PowerOnResetUnconfigures : Prop :=
  (State.reset.engine.configured = false ∧ State.reset.rspValid = false) ∧
    ∀ (s : State) (p : Ports) (rest : List Ports), s.inputs = p :: rest → p.rst = true →
      ∃ t, step s = .next t ∧ t.engine.configured = false ∧ t.rspValid = false ∧ t.inputs = rest ∧
        ∀ i u, exec i t = .next u → u.rspErr = 0 → ∃ w q n x ri ro, i = .load w q n x ri ro

/-- R34: port samples queued by the host are acted on one at a time in order, each completely before the next
(log 2). -/
def Obligations.QueuedSamplesAreActedOnInOrder : Prop :=
  ∀ (ps rest : List Ports) (s : State), s.inputs = ps ++ rest →
    core.run ps.length s = performAll ps { s with inputs := rest }

/-- R26, R93: a register no LOAD has written is never read. Two unconfigured engines that differ in every other
register give the same responses to the same inputs, for ever. So no response depends on log 1. -/
def Obligations.UnconfiguredRegistersAreNeverRead : Prop :=
  ∀ (ps : List Ports) (s t : State) (e : Engine), s.engine.configured = false →
    e.configured = false → performAll ps s = .next t →
    ∃ u, performAll ps { s with engine := e } = .next u ∧ u.rsp = t.rsp ∧ u.draws = t.draws ∧
      (u.engine = t.engine ∨ (u.engine.configured = false ∧ t.engine.configured = false))

/-! ### LOAD (40_load.md, 10_state.md) -/

/-- R51, and that LOAD completes for every legal width: it stores the parameters, the three wide ones modulo
`2^width`. -/
def Obligations.LoadStoresNormalisedParameters : Prop :=
  ∀ (w : Width) (poly init xorout : Word) (ri ro : Bool) (s : State),
    3 ≤ w.toNat → w.toNat ≤ 32 →
    ∃ t, exec (.load w poly init xorout ri ro) s = .next t ∧ t.rspErr = 0 ∧
      t.engine.P.width = w ∧ t.engine.P.refIn = ri ∧ t.engine.P.refOut = ro ∧
      t.engine.P.polynomial.toNat = poly.toNat % 2 ^ w.toNat ∧
      t.engine.P.init.toNat = init.toNat % 2 ^ w.toNat ∧
      t.engine.P.xorOut.toNat = xorout.toNat % 2 ^ w.toNat ∧ t.inputs = s.inputs

/-- R52 with R16 to R20: a successful LOAD derives the working registers from the parameters just written, sets
`crc` to `W.init` and `configured` to 1, and responds OK. -/
def Obligations.LoadDerivesWorkingRegisters : Prop :=
  ∀ (w : Width) (poly init xorout : Word) (ri ro : Bool) (s : State),
    3 ≤ w.toNat → w.toNat ≤ 32 →
    ∃ t, exec (.load w poly init xorout ri ro) s = .next t ∧
      t.engine.W.polynomial.toNat =
        (if ri then reverseBits t.engine.P.polynomial.toNat w.toNat
         else if w.toNat < 8 then t.engine.P.polynomial.toNat * 2 ^ (8 - w.toNat)
         else t.engine.P.polynomial.toNat) ∧
      t.engine.W.init.toNat =
        (if ri then reverseBits t.engine.P.init.toNat w.toNat
         else if w.toNat < 8 then t.engine.P.init.toNat * 2 ^ (8 - w.toNat)
         else t.engine.P.init.toNat) ∧
      t.engine.W.check.toNat =
        (if ri then 1 else if w.toNat ≤ 8 then 0x80 else 2 ^ (w.toNat - 1)) ∧
      t.engine.W.mask.toNat = (if w.toNat ≤ 8 then 0xFF else 2 ^ w.toNat - 1) ∧
      t.engine.W.outlen.toNat = (w.toNat + 3) / 4 ∧
      1 ≤ t.engine.W.outlen.toNat ∧ t.engine.W.outlen.toNat ≤ 8 ∧
      t.engine.crc = t.engine.W.init ∧ t.engine.configured = true ∧ t.rsp = some .ok

/-- R44, R50: the three classes of LOAD widths. Legal ones succeed, 33 to 63 respond `InvalidWidth` with no state
written, 0 to 2 are refused. -/
def Obligations.LoadWidthClasses : Prop :=
  ∀ (w : Width) (poly init xorout : Word) (ri ro : Bool) (s : State),
    (3 ≤ w.toNat → w.toNat ≤ 32 →
      ∃ t, exec (.load w poly init xorout ri ro) s = .next t ∧ t.rspErr = 0) ∧
    (33 ≤ w.toNat →
      ∃ t, exec (.load w poly init xorout ri ro) s = .next t ∧ t.rspErr = 1 ∧
        t.engine = s.engine ∧ t.inputs = s.inputs) ∧
    (w.toNat < 3 → exec (.load w poly init xorout ri ro) s = .refused .reservedWidth)

/-- R53 item 5: LOAD on a configured engine overwrites everything; the engine it leaves depends on its operands
alone. -/
def Obligations.LoadDropsTheOldEngine : Prop :=
  ∀ (w : Width) (poly init xorout : Word) (ri ro : Bool) (s s' t t' : State),
    exec (.load w poly init xorout ri ro) s = .next t → t.rspErr = 0 →
    exec (.load w poly init xorout ri ro) s' = .next t' → t'.engine = t.engine

/-- R53 item 6: LOAD with the parameters already loaded does what RESET does. -/
def Obligations.ReloadActsAsReset : Prop :=
  ∀ s : State, s.Inv → s.engine.configured = true →
    ∃ t, exec (.load s.engine.P.width s.engine.P.polynomial s.engine.P.init s.engine.P.xorOut
        s.engine.P.refIn s.engine.P.refOut) s = .next t ∧ exec .reset s = .next t

/-- R23: what holds of the registers after a successful LOAD. -/
def Obligations.LoadedRegistersAreBounded : Prop :=
  ∀ (w : Width) (poly init xorout : Word) (ri ro : Bool) (s t : State),
    exec (.load w poly init xorout ri ro) s = .next t → t.rspErr = 0 →
    t.engine.W.polynomial ≤ t.engine.W.mask ∧ t.engine.W.init ≤ t.engine.W.mask ∧
      t.engine.W.check ≤ t.engine.W.mask ∧ (∃ k, t.engine.W.check.toNat = 2 ^ k) ∧
      t.engine.P.xorOut.toNat < 2 ^ w.toNat ∧ 2 ^ w.toNat ≤ t.engine.W.mask.toNat + 1 ∧
      (ri = false → w.toNat < 8 →
        t.engine.W.polynomial.toNat % 2 ^ (8 - w.toNat) = 0 ∧
          t.engine.W.init.toNat % 2 ^ (8 - w.toNat) = 0) ∧
      (ri = true →
        t.engine.W.polynomial.toNat < 2 ^ w.toNat ∧ t.engine.W.init.toNat < 2 ^ w.toNat)

/-! ### APPEND (41_append.md) -/

/-- R55: the value APPEND writes to `crc`, step by step on unbounded naturals; nothing else of the engine is
written (R54). -/
def Obligations.AppendFoldsAndShiftsEightTimes : Prop :=
  ∀ (b : Byte) (s : State), s.engine.configured = true →
    exec (.append b) s = .next
      (let e := s.engine
       let w := e.P.width.toNat
       let mask := e.W.mask.toNat
       let folded :=
         if w ≤ 8 then e.crc.toNat ^^^ b.toNat
         else if e.P.refIn then e.crc.toNat ^^^ (b.toNat &&& mask)
         else e.crc.toNat ^^^ ((b.toNat <<< (w - 8)) &&& mask)
       let shift := fun c : Nat =>
         if c &&& e.W.check.toNat ≠ 0 then
           (if e.P.refIn then (c >>> 1) ^^^ e.W.polynomial.toNat
            else (c <<< 1) ^^^ e.W.polynomial.toNat)
         else if e.P.refIn then c >>> 1
         else c <<< 1
       { s with
         engine := { e with crc := BitVec.ofNat 32 (shift^[8] folded &&& mask) }
         rsp := some .ok
         draws := s.draws + 1 })

/-- R56: at a command boundary of a configured engine, APPEND equals the bit-serial register that is limited at
every step, in which no intermediate value exceeds `W.mask`. -/
def Obligations.AppendEqualsBitSerialRegister : Prop :=
  ∀ (b : Byte) (s : State), s.Inv → s.engine.configured = true →
    ∃ t, exec (.append b) s = .next t ∧
      (let e := s.engine
       let start : Word :=
         if e.P.width.toNat ≤ 8 then e.crc ^^^ b.setWidth 32
         else if e.P.refIn then e.crc ^^^ (b.setWidth 32 &&& e.W.mask)
         else e.crc ^^^ ((b.setWidth 32 <<< (e.P.width.toNat - 8)) &&& e.W.mask)
       let shift := fun c : Word =>
         let shifted := if e.P.refIn then c >>> 1 else (c <<< 1) &&& e.W.mask
         if c &&& e.W.check ≠ 0 then shifted ^^^ e.W.polynomial else shifted
       t.engine = { e with crc := shift^[8] start } ∧ ∀ k ≤ 8, shift^[k] start ≤ e.W.mask)

/-- R57: for a fixed configuration APPEND is linear over GF(2) in the register and the byte. -/
def Obligations.AppendIsLinear : Prop :=
  ∀ (p : Params) (c d : Word) (a b : Byte), p.Legal → p.Holds c.toNat → p.Holds d.toNat →
    appendedCrc ⟨true, p, deriveWork p, c ^^^ d⟩ (a ^^^ b) =
        appendedCrc ⟨true, p, deriveWork p, c⟩ a ^^^ appendedCrc ⟨true, p, deriveWork p, d⟩ b ∧
      appendedCrc ⟨true, p, deriveWork p, 0⟩ 0 = 0

/-- R59 item 6: with non-reflected input the register gains at most one bit per shift step; with reflected input
it never exceeds the mask. -/
def Obligations.AppendHeadroomIsEightBits : Prop :=
  ∀ (b : Byte) (e : Engine) (k : Nat), e.Inv → e.configured = true → k ≤ 8 →
    (e.P.refIn = false →
      (shiftStep e)^[k] (e.crc.toNat ^^^ foldOf e b) < 2 ^ (max e.P.width.toNat 8 + k)) ∧
    (e.P.refIn = true →
      (shiftStep e)^[k] (e.crc.toNat ^^^ foldOf e b) ≤ e.W.mask.toNat)

/-- R59 item 7: with a zero working polynomial an APPEND only shifts. -/
def Obligations.AppendWithZeroPolynomialOnlyShifts : Prop :=
  ∀ (b : Byte) (s : State), s.Inv → s.engine.configured = true → s.engine.W.polynomial = 0 →
    ∃ t, exec (.append b) s = .next t ∧
      t.engine.crc.toNat =
        (let e := s.engine
         let w := e.P.width.toNat
         if w ≤ 8 then 0
         else if e.P.refIn then (e.crc.toNat ^^^ b.toNat) >>> 8
         else ((e.crc.toNat ^^^ (b.toNat <<< (w - 8))) <<< 8) &&& e.W.mask.toNat)

/-- Glossary of 00_scope.md ("computed via polynomial division over GF(2)"), R30: for non-reflected input the new
register is the remainder of the division of `crc * x^8 + b * x^n` by `x^n + W.polynomial`, with `n` the size of
the register. The implicit leading term is the spec's own general knowledge (93_implementation_defined.md G2). -/
def Obligations.AppendIsPolynomialDivision : Prop :=
  ∀ (b : Byte) (s : State), s.Inv → s.engine.configured = true → s.engine.P.refIn = false →
    ∃ t q, exec (.append b) s = .next t ∧ q < 2 ^ 8 ∧
      (let n := max s.engine.P.width.toNat 8
       (s.engine.crc.toNat <<< 8) ^^^ (b.toNat <<< n) =
          quotientTimes q (2 ^ n + s.engine.W.polynomial.toNat) ^^^ t.engine.crc.toNat ∧
        t.engine.crc.toNat < 2 ^ n)

/-- R30: reflected input is the mirror image of non-reflected input. Reversing register and byte, appending
non-reflected with the same parameters and reversing back is what a reflected APPEND does. -/
def Obligations.ReflectedAppendIsTheMirrorImage : Prop :=
  ∀ (p : Params) (c : Word) (b : Byte), p.Legal → p.refIn = true → p.Holds c.toNat →
    (let n := max p.width.toNat 8
     let q := { p with refIn := false }
     reverseBits (appendedCrc ⟨true, p, deriveWork p, c⟩ b).toNat n =
      (appendedCrc ⟨true, q, deriveWork q, BitVec.ofNat 32 (reverseBits c.toNat n)⟩
        (BitVec.ofNat 8 (reverseBits b.toNat 8))).toNat)

/-- R29, R58: a sequence of APPENDs completes on a configured engine and folds its bytes in order, so how a host
groups them into buffers does not matter. -/
def Obligations.AppendsFoldTheMessageInOrder : Prop :=
  ∀ (xs ys : List Byte) (s : State), s.engine.configured = true →
    ∃ t u, performCommands (appendAll (xs ++ ys)) s = .next t ∧
      t.engine = (xs ++ ys).foldl appendedEngine s.engine ∧
      performCommands (appendAll xs) s = .next u ∧ performCommands (appendAll ys) u = .next t

/-! ### FINISH (42_finish_reset.md) -/

/-- R60, R66: the value FINISH reports, the digit count, and the restart of `crc`; nothing else of the engine is
written. On an unconfigured engine it raises `NotConfigured` and changes nothing. -/
def Obligations.FinishReportsAndRestarts : Prop :=
  (∀ s : State, s.engine.configured = true →
    exec .finish s = .next
      (let e := s.engine
       let w := e.P.width.toNat
       let c := if w < 8 ∧ e.P.refIn = false then e.crc.toNat >>> (8 - w) else e.crc.toNat
       let value :=
         if e.P.refIn = false ∧ e.P.refOut = true then
           reverseBits (c &&& e.W.mask.toNat) (bitLengthOf (c &&& e.W.mask.toNat)) ^^^
             e.P.xorOut.toNat
         else (c ^^^ e.P.xorOut.toNat) &&& e.W.mask.toNat
       { s with
         engine := { e with crc := e.W.init }
         rsp := some (.result (BitVec.ofNat 32 value) e.W.outlen) })) ∧
    ∀ s : State, s.engine.configured = false →
      ∃ t, exec .finish s = .next t ∧ t.rsp = some (.error .notConfigured) ∧ t.engine = s.engine

/-- R64: in every configuration the value is below `2^width`, and the ports carry it and the digit count. -/
def Obligations.FinishValueFitsTheWidth : Prop :=
  ∀ s : State, s.Inv → s.engine.configured = true →
    ∃ t, exec .finish s = .next t ∧ t.rspErr = 0 ∧ t.rspValue.toNat = finishValue s.engine ∧
      t.rspValue.toNat < 2 ^ s.engine.P.width.toNat ∧ t.rspOutlen = s.engine.W.outlen

/-- R62: the asymmetric branch reverses the significant bits of the value, not `width` bits. It equals the
ordinary reflection when the top bit is set; when that is clear and the value is not 0 it differs from it; the
reversal is odd, or 0 when the value is. -/
def Obligations.AsymmetricFinishReversesSignificantBits : Prop :=
  ∀ s : State, s.Inv → s.engine.configured = true → s.engine.P.refIn = false →
    s.engine.P.refOut = true →
    (let e := s.engine
     let w := e.P.width.toNat
     let c := unalignedCrc e
     ∃ t r, exec .finish s = .next t ∧ t.rspValue.toNat = r ^^^ e.P.xorOut.toNat ∧
      r = reverseBits c (bitLengthOf c) ∧ (c = 0 → r = 0) ∧ (c ≠ 0 → r % 2 = 1) ∧
      (c.testBit (w - 1) = true → r = reverseBits c w) ∧
      (c ≠ 0 → c.testBit (w - 1) = false → r ≠ reverseBits c w))

/-- R63: for reflected input `refOut` has no effect on the response. -/
def Obligations.ReflectedFinishIgnoresRefOut : Prop :=
  ∀ (s : State) (ro : Bool), s.engine.configured = true → s.engine.P.refIn = true →
    ∃ t u, exec .finish s = .next t ∧
      exec .finish { s with engine := { s.engine with P := { s.engine.P with refOut := ro } } } =
        .next u ∧ u.rsp = t.rsp

/-- R68 item 3: the result of the empty message, for all four reflection combinations and every legal width. -/
def Obligations.EmptyMessageResult : Prop :=
  ∀ (w : Width) (poly init xorout : Word) (ri ro : Bool) (s : State),
    3 ≤ w.toNat → w.toNat ≤ 32 →
    ∃ t, performCommands [.load w poly init xorout ri ro, .finish] s = .next t ∧ t.rspErr = 0 ∧
      t.rspValue.toNat =
        (let i := init.toNat % 2 ^ w.toNat
         let x := xorout.toNat % 2 ^ w.toNat
         if ri then reverseBits i w.toNat ^^^ x
         else if ro then reverseBits i (bitLengthOf i) ^^^ x
         else i ^^^ x)

/-- R68 item 1: the engine after FINISH is the engine after the LOAD that configured it, wherever that LOAD is
issued. -/
def Obligations.FinishReturnsToTheLoadedEngine : Prop :=
  ∀ s s' : State, s.Inv → s.engine.configured = true →
    ∃ t u, exec .finish s = .next t ∧
      exec (.load s.engine.P.width s.engine.P.polynomial s.engine.P.init s.engine.P.xorOut
        s.engine.P.refIn s.engine.P.refOut) s' = .next u ∧ t.engine = u.engine

/-- R68 item 1, R99: the same message after FINISH reproduces the same response, with no RESET between. -/
def Obligations.RepeatedMessageRepeatsTheResponse : Prop :=
  ∀ (bs : List Byte) (s : State), s.engine.configured = true → s.engine.crc = s.engine.W.init →
    ∃ t u, performCommands (appendAll bs ++ [.finish]) s = .next t ∧
      performCommands (appendAll bs ++ [.finish]) t = .next u ∧ u.rsp = t.rsp ∧ u.engine = t.engine

/-- R68 item 4: `xorOut` all ones inverts the `width` result bits that `xorOut = 0` leaves. -/
def Obligations.AllOnesXorOutInvertsTheResult : Prop :=
  ∀ s : State, s.Inv → s.engine.configured = true →
    ∃ t u, exec .finish { s with engine := { s.engine with P := { s.engine.P with xorOut := 0 } } } =
        .next t ∧
      exec .finish { s with engine := { s.engine with P := { s.engine.P with
        xorOut := BitVec.ofNat 32 (2 ^ s.engine.P.width.toNat - 1) } } } = .next u ∧
      u.rspValue.toNat + t.rspValue.toNat = 2 ^ s.engine.P.width.toNat - 1

/-- R65: the digits of a value that fits are exactly `outlen` many and spell the value, in either case of the
digits (log 6). -/
def Obligations.ResultDigitsSpellTheValue : Prop :=
  ∀ (upper : Bool) (value outlen : Nat), value < 16 ^ outlen →
    (resultDigits upper value outlen).length = outlen ∧
      readDigits 16 0 (resultDigits upper value outlen) = some value

/-! ### RESET (42_finish_reset.md R67) -/

/-- R67: RESET writes `crc` only, with `W.init`; on an unconfigured engine it raises `NotConfigured`; straight
after LOAD, FINISH or RESET it changes nothing of the engine. -/
def Obligations.ResetRestartsTheRegister : Prop :=
  (∀ s : State, s.engine.configured = true →
      exec .reset s = .next { s with
        engine := { s.engine with crc := s.engine.W.init }
        rsp := some .ok
        draws := s.draws + 1 }) ∧
    (∀ s : State, s.engine.configured = false →
      ∃ t, exec .reset s = .next t ∧ t.rsp = some (.error .notConfigured) ∧ t.engine = s.engine) ∧
    ∀ (i : Instr) (s t : State), (∀ b, i ≠ .append b) → exec i s = .next t → t.rspErr = 0 →
      ∃ u, exec .reset t = .next u ∧ u.rspErr = 0 ∧ u.engine = t.engine

/-! ### Errors (60_exceptions.md) -/

/-- R83: APPEND, FINISH and RESET respond `NotConfigured`, code 2, exactly when `configured = 0`; LOAD never
does. -/
def Obligations.NotConfiguredIsRaisedExactlyWhenUnconfigured : Prop :=
  (∀ (i : Instr) (s : State), s.engine.configured = false →
      (∀ w p n x ri ro, i ≠ .load w p n x ri ro) →
      ∃ t, exec i s = .next t ∧ t.rsp = some (.error .notConfigured) ∧ t.rspErr = 2 ∧
        t.engine = s.engine ∧ t.inputs = s.inputs) ∧
    ∀ (i : Instr) (s t : State), exec i s = .next t → t.rspErr = 2 →
      s.engine.configured = false ∧ ∀ w p n x ri ro, i ≠ .load w p n x ri ro

/-- R86: which command responds with which error. -/
def Obligations.ErrorResponsesByCommand : Prop :=
  ∀ (i : Instr) (s t : State), exec i s = .next t →
    match i with
    | .load w _ _ _ _ _ =>
      (t.rspErr = 0 ↔ 3 ≤ w.toNat ∧ w.toNat ≤ 32) ∧
        (t.rspErr = 1 ↔ 33 ≤ w.toNat ∧ w.toNat ≤ 63) ∧ t.rspErr ≠ 2
    | .append _ =>
      (t.rspErr = 0 ↔ s.engine.configured = true) ∧ t.rspErr ≠ 1 ∧
        (t.rspErr = 2 ↔ s.engine.configured = false)
    | .finish =>
      (t.rspErr = 0 ↔ s.engine.configured = true) ∧ t.rspErr ≠ 1 ∧
        (t.rspErr = 2 ↔ s.engine.configured = false)
    | .reset =>
      (t.rspErr = 0 ↔ s.engine.configured = true) ∧ t.rspErr ≠ 1 ∧
        (t.rspErr = 2 ↔ s.engine.configured = false)

/-- R84: a command that responds with an error leaves the engine as it was, and every later command behaves as if
it had never been issued. -/
def Obligations.ErrorsLeaveNoTrace : Prop :=
  ∀ (i : Instr) (s t : State), exec i s = .next t → t.rspErr ≠ 0 →
    t.engine = s.engine ∧
      ∀ (ps : List Ports) (u : State), performAll ps s = .next u → ps ≠ [] →
        (∀ p ∈ ps, p.rst = true ∨ p.cmdValid = true) →
        ∃ v, performAll ps t = .next v ∧ v.engine = u.engine ∧ v.rsp = u.rsp

/-- R100, R37, R44: a command with a meaning is answered in one step, with a response available; one without (LOAD
of reserved width) is refused; nothing faults. -/
def Obligations.EveryCommandIsAnsweredOrRefused : Prop :=
  ∀ (i : Instr) (s : State),
    (i.wellFormed = true → ∃ t, exec i s = .next t ∧ t.rspValid = true) ∧
      (i.wellFormed = false → exec i s = .refused .reservedWidth)

/-! ### Frames and whole-machine rules -/

/-- R12, R14, R54, R60, R67: APPEND, FINISH and RESET write no register but `crc`, in every state and on every
outcome that goes on; no command changes what the host will present or where its instance draws free values from (log
2, log 19). -/
def Obligations.OnlyLoadWritesMoreThanCrc : Prop :=
  ∀ (i : Instr) (s t : State), exec i s = .next t →
    t.inputs = s.inputs ∧ t.stream = s.stream ∧
      ((∀ w p n x ri ro, i ≠ .load w p n x ri ro) →
        t.engine.configured = s.engine.configured ∧ t.engine.P = s.engine.P ∧
          t.engine.W = s.engine.W)

/-- R11: `configured` is cleared by power-on reset alone and set by a successful LOAD alone. That a LOAD presented
together with `rst` does not configure is the model's choice (log 3, DESIGN CHOICE). -/
def Obligations.ConfiguredIsSetByLoadAndClearedByReset : Prop :=
  ∀ (s t : State) (p : Ports) (rest : List Ports), s.inputs = p :: rest → step s = .next t →
    (s.engine.configured = true → t.engine.configured = false → p.rst = true) ∧
      (s.engine.configured = false → t.engine.configured = true →
        p.rst = false ∧ p.cmdValid = true ∧ t.rsp = some .ok ∧
          ∃ w q n x ri ro, decodeCommand p.cmd = .load w q n x ri ro ∧ legalWidth w = true)

/-- R15, R22, R24, R25, R40, R65: every step keeps the invariant, from every state that meets it. -/
def Obligations.StepKeepsTheInvariant : Prop :=
  ∀ s t : State, s.Inv → step s = .next t → t.Inv

/-- The invariant holds after power-on reset. -/
def Obligations.ResetMeetsTheInvariant : Prop := State.reset.Inv

/-- R100: a sequence of samples in which no LOAD of reserved width is presented runs to its end from every state,
and the invariant holds there if it held at the start. That a sample with `rst` goes on even when it carries a LOAD of
reserved width is the model's choice (log 3, DESIGN CHOICE). -/
def Obligations.SafeInputsRunToTheEnd : Prop :=
  ∀ (ps : List Ports) (s : State), (∀ p ∈ ps, p.Safe) →
    ∃ t, performAll ps s = .next t ∧ (s.Inv → t.Inv)

/-- R91: instances are independent. Whatever the interleaving, each ends where its own samples alone take it. -/
def Obligations.InstancesAreIndependent : Prop :=
  ∀ (sched : List (Nat × Ports)) (sys sys' : System) (k : Nat) (s : State),
    System.performAll sched sys = .next sys' → sys.instances[k]? = some s →
    ∃ t, performAll (samplesFor k sched) s = .next t ∧ sys'.instances[k]? = some t

/-- R36, R47, R79: LOAD, the APPENDs of a message and FINISH give, from every state, the checksum the parameters
and the bytes alone determine, and leave the engine ready for the next message; when the LOAD responds with an
error nothing more is issued. -/
def Obligations.CalcComputesTheChecksum : Prop :=
  ∀ (w : Width) (poly init xorout : Word) (ri ro : Bool) (bs : List Byte) (s : State),
    (3 ≤ w.toNat → w.toNat ≤ 32 →
      ∃ t, performCalc (.load w poly init xorout ri ro) (appendAll bs ++ [.finish]) s = .next t ∧
        (let e := loadedEngine (captureParams w poly init xorout ri ro)
         t.rspErr = 0 ∧ t.rspValue.toNat = finishValue (bs.foldl appendedEngine e) ∧
          t.rspOutlen.toNat = outLength w.toNat ∧ t.engine = e)) ∧
    (33 ≤ w.toNat →
      ∃ t, performCalc (.load w poly init xorout ri ro) (appendAll bs ++ [.finish]) s = .next t ∧
        t.rspErr = 1 ∧ t.engine = s.engine)

/-! ### Primitives (00_scope.md) -/

/-- R7: bit `i` of the reversal is bit `n-1-i` of the value, and no bit stands at or above position `n`; reversing
twice normalises; and the rule's examples. -/
def Obligations.ReverseBitsReversesTheLowBits : Prop :=
  (∀ v n i : Nat, (reverseBits v n).testBit i = (decide (i < n) && (norm v n).testBit (n - 1 - i))) ∧
    (∀ v n : Nat, reverseBits v n < 2 ^ n) ∧
    (∀ v n : Nat, reverseBits (reverseBits v n) n = norm v n) ∧ (∀ v, reverseBits v 0 = 0) ∧
    reverseBits 0x3 3 = 0x6 ∧ reverseBits 0x05 5 = 0x14 ∧ reverseBits 0x8005 16 = 0xA001 ∧
    reverseBits 0x04C11DB7 32 = 0xEDB88320

/-- R8: `bitLengthOf v` is the least `L` with `v < 2^L`; and the rule's examples. -/
def Obligations.BitLengthIsTheLeastBound : Prop :=
  (∀ v : Nat, v < 2 ^ bitLengthOf v ∧ ∀ n, v < 2 ^ n → bitLengthOf v ≤ n) ∧
    bitLengthOf 0 = 0 ∧ bitLengthOf 1 = 1 ∧ bitLengthOf 0x505 = 11 ∧ bitLengthOf 0xF5B = 12 ∧
    bitLengthOf 0xFFFFFFFF = 32

/-- R9: `ceil(width/4)`, and the rule's table for the legal widths. -/
def Obligations.OutLengthIsTheDigitCount : Prop :=
  (∀ w : Nat, w ≤ 4 * outLength w ∧ 4 * outLength w < w + 4) ∧
    ∀ k : Nat, 1 ≤ k → k ≤ 8 → ∀ w : Nat, 3 ≤ w → w ≤ 32 →
      (outLength w = k ↔ 4 * k - 3 ≤ w ∧ w ≤ 4 * k)

/-! ### Host software (43_host_software.md; outside the block, log 11) -/

/-- R74, C3: registration fails for a width above 32 and for a name that exists; otherwise, a width below 3 or negative
included, it adds one name with the normalised tuple and changes no other. -/
def Obligations.RegisterAddsOneNewName : Prop :=
  ∀ (reg : Registry) (name : String) (p : AlgorithmParameters),
    (Config.maxWidth < p.width → ∀ reg', registerAlgorithm reg name p ≠ .ok reg') ∧
    (existsAlgorithm reg name = true → ∀ reg', registerAlgorithm reg name p ≠ .ok reg') ∧
    (p.width ≤ 32 → existsAlgorithm reg name = false →
      ∃ reg', registerAlgorithm reg name p = .ok reg' ∧
        lookupAlgorithm reg' name = .ok { p with
          polynomial := normalize p.polynomial p.width
          init := normalize p.init p.width
          xorOut := normalize p.xorOut p.width } ∧
        ∀ other, other ≠ name → lookupAlgorithm reg' other = lookupAlgorithm reg other)

/-- R73: in a registry built by registration, the registered names are exactly those that exist, without
repetition, and sorted under every total and transitive collation (N9, log 11). -/
def Obligations.RegisteredNamesAreSortedAndExist : Prop :=
  ∀ (catalogue : List (String × AlgorithmParameters)) (reg : Registry)
    (le : String → String → Bool),
    (∀ a b, le a b = true ∨ le b a = true) →
    (∀ a b c, le a b = true → le b c = true → le a c = true) →
    seedRegistry catalogue = .ok reg →
    (∀ name, name ∈ registeredAlgorithms le reg ↔ existsAlgorithm reg name = true) ∧
      (registeredAlgorithms le reg).Nodup ∧
      (registeredAlgorithms le reg).Pairwise fun a b => le a b = true

/-- R78, R79: for a tuple that registration accepted and whose width is not reserved, `calculate` of a string or of a
byte buffer reports on any engine the text of the checksum the block computes from the tuple and the message bytes.
For a name that is not registered it fails with `UnknownAlgorithm`. The bytes of a string other than the check string are
left open (log 11). -/
def Obligations.CalculateReportsTheChecksumText : Prop :=
  (∀ (catalogue : List (String × AlgorithmParameters)) (reg : Registry) (name : String)
      (p : AlgorithmParameters) (data : HostData) (s : State),
      seedRegistry catalogue = .ok reg → lookupAlgorithm reg name = .ok p → 3 ≤ p.width →
      (let e := loadedEngine ⟨BitVec.ofNat 6 p.width.toNat, p.polynomial.setWidth 32,
          p.init.setWidth 32, p.xorOut.setWidth 32, p.refIn, p.refOut⟩
       calculateText reg name data s =
        .ok (some (resultText (BitVec.ofNat 32 (finishValue (data.bytes.foldl appendedEngine e)))
          (BitVec.ofNat 4 (outLength p.width.toNat)))))) ∧
    (∀ (reg : Registry) (name : String) (data : HostData) (s : State),
      existsAlgorithm reg name = false →
      calculateText reg name data s = .error .unknownAlgorithm ∧
        calculateCommands reg name data = .error .unknownAlgorithm)

/-- R78: a LOAD that `initialize` issues for a registered name never responds `InvalidWidth`. -/
def Obligations.InitializeNeverMeetsInvalidWidth : Prop :=
  ∀ (catalogue : List (String × AlgorithmParameters)) (reg : Registry) (name : String)
    (load : Instr) (s t : State),
    seedRegistry catalogue = .ok reg → initializeEngine reg name = .ok (some load) →
    exec load s = .next t → t.rspErr ≠ 1

/-- R76: the check string, as a string or as the nine bytes the rule fixes, is the same message: appended it is the
same commands, and `calculate` has the same outcome. -/
def Obligations.CheckStringIsItsNineBytes : Prop :=
  (HostData.text "123456789").bytes =
      [0x31, 0x32, 0x33, 0x34, 0x35, 0x36, 0x37, 0x38, 0x39] ∧
    ∀ (reg : Registry) (name : String) (s : State),
      appendData (.text "123456789") =
          appendData (.buffer [0x31, 0x32, 0x33, 0x34, 0x35, 0x36, 0x37, 0x38, 0x39]) ∧
        calculateText reg name (.text "123456789") s =
          calculateText reg name (.buffer [0x31, 0x32, 0x33, 0x34, 0x35, 0x36, 0x37, 0x38, 0x39]) s
end

