-- ==== Sys2Proof/Laws/State.lean ====
section
/-! SUPPORT. One lemma per field per update of the state and of the engine, true by rfl, so that no later proof
unfolds a record update; and what each response shows on the ports. -/

namespace Sys2Proof.Machine

/-! ### Responding -/

@[simp] theorem respondOk_engine (s : State) : (respondOk s).engine = s.engine := rfl
@[simp] theorem respondOk_rsp (s : State) : (respondOk s).rsp = some .ok := rfl
@[simp] theorem respondOk_stream (s : State) : (respondOk s).stream = s.stream := rfl
@[simp] theorem respondOk_draws (s : State) : (respondOk s).draws = s.draws + 1 := rfl
@[simp] theorem respondOk_inputs (s : State) : (respondOk s).inputs = s.inputs := rfl

@[simp] theorem respondResult_engine (v : Word) (n : Outlen) (s : State) :
    (respondResult v n s).engine = s.engine := rfl
@[simp] theorem respondResult_rsp (v : Word) (n : Outlen) (s : State) :
    (respondResult v n s).rsp = some (.result v n) := rfl
@[simp] theorem respondResult_stream (v : Word) (n : Outlen) (s : State) :
    (respondResult v n s).stream = s.stream := rfl
@[simp] theorem respondResult_draws (v : Word) (n : Outlen) (s : State) :
    (respondResult v n s).draws = s.draws := rfl
@[simp] theorem respondResult_inputs (v : Word) (n : Outlen) (s : State) :
    (respondResult v n s).inputs = s.inputs := rfl

/-! ### Power-on reset -/

@[simp] theorem powerOnReset_engine (s : State) : (powerOnReset s).engine = Engine.reset := rfl
@[simp] theorem powerOnReset_rsp (s : State) : (powerOnReset s).rsp = none := rfl
@[simp] theorem powerOnReset_stream (s : State) : (powerOnReset s).stream = s.stream := rfl
@[simp] theorem powerOnReset_draws (s : State) : (powerOnReset s).draws = s.draws + 1 := rfl
@[simp] theorem powerOnReset_inputs (s : State) : (powerOnReset s).inputs = s.inputs := rfl
@[simp] theorem reset_configured : Engine.reset.configured = false := rfl

/-! ### The engine -/

@[simp] theorem restart_configured (e : Engine) : e.restart.configured = e.configured := rfl
@[simp] theorem restart_P (e : Engine) : e.restart.P = e.P := rfl
@[simp] theorem restart_W (e : Engine) : e.restart.W = e.W := rfl
@[simp] theorem restart_crc (e : Engine) : e.restart.crc = e.W.init := rfl

@[simp] theorem appendedEngine_configured (e : Engine) (b : Byte) :
    (appendedEngine e b).configured = e.configured := rfl
@[simp] theorem appendedEngine_P (e : Engine) (b : Byte) : (appendedEngine e b).P = e.P := rfl
@[simp] theorem appendedEngine_W (e : Engine) (b : Byte) : (appendedEngine e b).W = e.W := rfl
@[simp] theorem appendedEngine_crc (e : Engine) (b : Byte) :
    (appendedEngine e b).crc = appendedCrc e b := rfl

@[simp] theorem loadedEngine_configured (p : Params) : (loadedEngine p).configured = true := rfl
@[simp] theorem loadedEngine_P (p : Params) : (loadedEngine p).P = p := rfl
@[simp] theorem loadedEngine_W (p : Params) : (loadedEngine p).W = deriveWork p := rfl
@[simp] theorem loadedEngine_crc (p : Params) : (loadedEngine p).crc = (deriveWork p).init := rfl

@[simp] theorem captureParams_width (w : Width) (p n x : Word) (ri ro : Bool) :
    (captureParams w p n x ri ro).width = w := rfl
@[simp] theorem captureParams_refIn (w : Width) (p n x : Word) (ri ro : Bool) :
    (captureParams w p n x ri ro).refIn = ri := rfl
@[simp] theorem captureParams_refOut (w : Width) (p n x : Word) (ri ro : Bool) :
    (captureParams w p n x ri ro).refOut = ro := rfl

@[simp] theorem deriveWork_polynomial (p : Params) :
    (deriveWork p).polynomial = adjust p p.polynomial := rfl
@[simp] theorem deriveWork_init (p : Params) : (deriveWork p).init = adjust p p.init := rfl
@[simp] theorem deriveWork_check (p : Params) : (deriveWork p).check = checkOf p := rfl
@[simp] theorem deriveWork_mask (p : Params) : (deriveWork p).mask = maskOf p := rfl
@[simp] theorem deriveWork_outlen (p : Params) :
    (deriveWork p).outlen = BitVec.ofNat 4 (outLength p.width.toNat) := rfl

/-! ### The response ports -/

theorem rspErr_ok {s : State} (h : s.rsp = some .ok) : s.rspErr = 0 := by
  simp [State.rspErr, h]

theorem rspErr_result {s : State} {v : Word} {n : Outlen} (h : s.rsp = some (.result v n)) :
    s.rspErr = 0 := by
  simp [State.rspErr, h]

theorem rspErr_error {s : State} {k : ErrorKind} (h : s.rsp = some (.error k)) :
    s.rspErr = k.code := by
  simp [State.rspErr, h]

theorem rspValue_result {s : State} {v : Word} {n : Outlen} (h : s.rsp = some (.result v n)) :
    s.rspValue = v := by
  simp [State.rspValue, h]

theorem rspOutlen_result {s : State} {v : Word} {n : Outlen} (h : s.rsp = some (.result v n)) :
    s.rspOutlen = n := by
  simp [State.rspOutlen, h]

theorem rspValid_some {s : State} {r : Response} (h : s.rsp = some r) : s.rspValid = true := by
  simp [State.rspValid, h]

theorem code_ne_zero (k : ErrorKind) : k.code ≠ 0 := by cases k <;> decide

end Sys2Proof.Machine
end

