-- ==== Sys2Proof/Laws/Exec.lean ====
section
/-! SUPPORT. What each shared operation and each meaning can do, said once: if it answers a next state, then one of
the listed cases holds. Later proofs cite these and unfold nothing. -/

namespace Sys2Proof.Machine

/-- `raise E` (R84) writes the response and nothing of the engine. -/
theorem raise_eq_next {k : ErrorKind} {s t : State} (h : raise k s = .next t) :
    t.engine = s.engine ∧ t.rsp = some (.error k) ∧ t.stream = s.stream ∧ t.draws = s.draws + 1 ∧
      t.inputs = s.inputs := by
  cases h
  exact ⟨rfl, rfl, rfl, rfl, rfl⟩

theorem whenConfigured_of_configured {s : State} {act : Result} (h : s.engine.configured = true) :
    whenConfigured s act = act := by
  simp [whenConfigured, h]

theorem whenConfigured_of_unconfigured {s : State} {act : Result}
    (h : s.engine.configured = false) : whenConfigured s act = raise .notConfigured s := by
  simp [whenConfigured, h]

theorem whenConfigured_cases {s t : State} {act : Result} (h : whenConfigured s act = .next t) :
    (s.engine.configured = true ∧ act = .next t) ∨
      (s.engine.configured = false ∧ raise .notConfigured s = .next t) := by
  cases hc : s.engine.configured with
  | true => exact .inl ⟨rfl, by rwa [whenConfigured_of_configured hc] at h⟩
  | false => exact .inr ⟨rfl, by rwa [whenConfigured_of_unconfigured hc] at h⟩

/-- The two ends of a LOAD that goes on: `InvalidWidth` (R50), or the engine configured (R51, R52). -/
theorem execLoad_cases {w : Width} {poly init xorout : Word} {ri ro : Bool} {s t : State}
    (h : execLoad w poly init xorout ri ro s = .next t) :
    (32 < w.toNat ∧ raise .invalidWidth s = .next t) ∨
      (3 ≤ w.toNat ∧ w.toNat ≤ 32 ∧
        t = respondOk { s with engine := loadedEngine (captureParams w poly init xorout ri ro) }) := by
  unfold execLoad at h
  split at h
  · exact .inl ⟨‹_›, h⟩
  · split at h
    · cases h
    · rename_i hmax hres
      cases h
      rw [reservedWidth, decide_eq_true_eq, Config.minWidth] at hres
      rw [Config.maxWidth] at hmax
      exact .inr ⟨by omega, by omega, rfl⟩

/-- The two ends of an APPEND (R54, R55, R83). -/
theorem execAppend_cases {b : Byte} {s t : State} (h : execAppend b s = .next t) :
    (s.engine.configured = true ∧ t = respondOk { s with engine := appendedEngine s.engine b }) ∨
      (s.engine.configured = false ∧ raise .notConfigured s = .next t) := by
  obtain ⟨hc, h⟩ | h := whenConfigured_cases h
  · cases h; exact .inl ⟨hc, rfl⟩
  · exact .inr h

/-- The two ends of a FINISH (R60, R83). -/
theorem execFinish_cases {s t : State} (h : execFinish s = .next t) :
    (s.engine.configured = true ∧
        t = respondResult (BitVec.ofNat 32 (finishValue s.engine)) s.engine.W.outlen
          { s with engine := s.engine.restart }) ∨
      (s.engine.configured = false ∧ raise .notConfigured s = .next t) := by
  obtain ⟨hc, h⟩ | h := whenConfigured_cases h
  · cases h; exact .inl ⟨hc, rfl⟩
  · exact .inr h

/-- The two ends of a RESET (R67, R83). -/
theorem execReset_cases {s t : State} (h : execReset s = .next t) :
    (s.engine.configured = true ∧ t = respondOk { s with engine := s.engine.restart }) ∨
      (s.engine.configured = false ∧ raise .notConfigured s = .next t) := by
  obtain ⟨hc, h⟩ | h := whenConfigured_cases h
  · cases h; exact .inl ⟨hc, rfl⟩
  · exact .inr h

/-- What a transaction can be: a power-on reset (R93), a command (R37), or nothing (R38). -/
theorem transact_cases {p : Ports} {s t : State} (h : transact p s = .next t) :
    (p.rst = true ∧ t = powerOnReset s) ∨
      (p.rst = false ∧ p.cmdValid = true ∧ exec (decodeCommand p.cmd) s = .next t) ∨
      (p.rst = false ∧ p.cmdValid = false ∧ t = s) := by
  unfold transact at h
  split at h
  · cases h; exact .inl ⟨‹_›, rfl⟩
  · split at h
    · exact .inr (.inl ⟨by simp_all, ‹_›, h⟩)
    · cases h; exact .inr (.inr ⟨by simp_all, by simp_all, rfl⟩)

/-- What a step can be: nothing presented, or a transaction with the oldest sample. -/
theorem step_cases {s t : State} (h : step s = .next t) :
    (s.inputs = [] ∧ t = s) ∨
      ∃ p rest, s.inputs = p :: rest ∧ transact p { s with inputs := rest } = .next t := by
  unfold step at h
  split at h
  · cases h; exact .inl ⟨‹_›, rfl⟩
  · exact .inr ⟨_, _, ‹_›, h⟩

end Sys2Proof.Machine
end

