-- ==== Sys2Proof/Laws/HostSoftware.lean ====
section
/-! SUPPORT. What the operations of the host software give, case by case, so that no later proof unfolds them. -/

namespace Sys2Proof.Machine

theorem normalize_of_nonneg {v : BitVec 64} {width : Int} (h : 0 ≤ width) :
    normalize v width = BitVec.ofNat 64 (norm v.toNat width.toNat) :=
  if_neg (by omega)

theorem loadOf_of_neg {p : AlgorithmParameters} (h : p.width < 0) : loadOf p = none := if_pos h

theorem loadOf_of_nonneg {p : AlgorithmParameters} (h : 0 ≤ p.width) :
    loadOf p = some (.load (BitVec.ofNat 6 p.width.toNat) (p.polynomial.setWidth 32)
      (p.init.setWidth 32) (p.xorOut.setWidth 32) p.refIn p.refOut) :=
  if_neg (by omega)

/-- A lookup either finds the stored tuple of an existing name or fails with `UnknownAlgorithm` (R75). -/
theorem lookupAlgorithm_cases (reg : Registry) (name : String) :
    (∃ p, reg.lookup name = some p ∧ existsAlgorithm reg name = true ∧
        lookupAlgorithm reg name = .ok p) ∨
      (reg.lookup name = none ∧ existsAlgorithm reg name = false ∧
        lookupAlgorithm reg name = .error .unknownAlgorithm) := by
  unfold existsAlgorithm lookupAlgorithm
  cases reg.lookup name with
  | some p => exact .inl ⟨p, rfl, rfl, rfl⟩
  | none => exact .inr ⟨rfl, rfl, rfl⟩

/-- A registration that succeeds added one new name of width at most 32 at the end (R74). -/
theorem registerAlgorithm_eq_ok {reg reg' : Registry} {name : String} {p : AlgorithmParameters}
    (h : registerAlgorithm reg name p = .ok reg') :
    p.width ≤ 32 ∧ existsAlgorithm reg name = false ∧
      reg' = reg ++ [(name, { p with
        polynomial := normalize p.polynomial p.width
        init := normalize p.init p.width
        xorOut := normalize p.xorOut p.width })] := by
  unfold registerAlgorithm at h
  split at h
  · cases h
  · split at h
    · cases h
    · rename_i hgate hname
      cases h
      have hfree : existsAlgorithm reg name = false := by simpa using hname
      refine ⟨?_, hfree, rfl⟩
      by_contra hwide
      exact hgate ⟨by simp only [Config.maxWidth]; omega, .inr hfree⟩

theorem textBytes_of_ne {text : String} (h : text ≠ checkString) :
    textBytes text = Config.nativeEncoding text :=
  if_neg h

@[simp] theorem bytes_text (text : String) : (HostData.text text).bytes = textBytes text := rfl

@[simp] theorem bytes_buffer (bs : List Byte) : (HostData.buffer bs).bytes = bs := rfl

end Sys2Proof.Machine
end

