-- ==== Sys2Proof/Laws/PerInstr.lean ====
section
/-! SUPPORT. Statements made once per command. `OpcodeMatch`: the canonical word of a command matches its row of
spec/opcode_table.json, mask 0x3 (30_encoding.md R41). -/

namespace Sys2Proof.Laws.OpcodeMatch

/-- The `match` value of a command's row. -/
def matchOf : Instr → BitVec 2
  | .load _ _ _ _ _ _ => 0
  | .append _ => 1
  | .finish => 2
  | .reset => 3

def Statement (i : Instr) : Prop := (encode i).extractLsb' 0 2 = matchOf i

/-- The two lowest bits of a command word are its code (30_encoding.md R39). -/
theorem word_low_bits (c : Command) : c.word.extractLsb' 0 2 = c.op := by
  ext i hi
  have : i = 0 ∨ i = 1 := by omega
  rcases this with rfl | rfl <;> simp [Command.word]

theorem load (w : Width) (p n x : Word) (ri ro : Bool) : Statement (.load w p n x ri ro) :=
  word_low_bits _
theorem append (b : Byte) : Statement (.append b) := word_low_bits _
theorem finish : Statement .finish := word_low_bits _
theorem reset : Statement .reset := word_low_bits _

end Sys2Proof.Laws.OpcodeMatch
end

