-- ==== Sys2Proof/Laws/Prims.lean ====
section
/-! SUPPORT. The defining equations of the primitives (00_scope.md R6 to R9) and of the one-bit fields. -/

namespace Sys2Proof.Machine

theorem norm_lt (v n : Nat) : norm v n < 2 ^ n := Nat.mod_lt _ (Nat.two_pow_pos n)

theorem norm_of_lt {v n : Nat} (h : v < 2 ^ n) : norm v n = v := Nat.mod_eq_of_lt h

theorem reverseBits_zero (v : Nat) : reverseBits v 0 = 0 := rfl

theorem reverseBits_succ (v n : Nat) :
    reverseBits v (n + 1) = v % 2 * 2 ^ n + reverseBits (v / 2) n := rfl

theorem bitLengthOf_zero : bitLengthOf 0 = 0 := rfl

theorem bitLengthOf_of_ne_zero {v : Nat} (h : v ≠ 0) : bitLengthOf v = Nat.log2 v + 1 := by
  simp [bitLengthOf, h]

end Sys2Proof.Machine

namespace Sys2Proof

@[simp] theorem flagOfBit_bitOfFlag (f : Bool) : flagOfBit (bitOfFlag f) = f := by
  cases f <;> rfl

theorem bitOfFlag_flagOfBit (b : BitVec 1) : bitOfFlag (flagOfBit b) = b := by
  revert b
  decide

end Sys2Proof
end

