-- ==== Sys2Proof/Tests/Slice0.lean ====
section
/-! SUPPORT. Tests on fixed values: words of 30_encoding.md and steps of 95_test_vectors.md (named in each comment),
the WellFormed smoke test, and for every statement with hypotheses a witness that meets them. -/

namespace Sys2Proof.Tests

open Sys2Proof.Machine

/-! ### WellFormed refuses ill-formed terms (R44, R47) -/

theorem test_reserved_width_is_ill_formed : (Instr.load 2 0x3 0 0 false false).wellFormed = false := by
  decide

theorem test_calc_of_reserved_width_is_ill_formed :
    (Pseudo.calc 0 0x3 0 0 false false [0x31]).wellFormed = false := by decide

theorem test_unprintable_text_is_ill_formed : (Pseudo.appends ['1', '\n']).wellFormed = false := by
  decide

theorem test_well_formed_bounds :
    (Instr.load 3 0x3 0 0x7 false false).wellFormed = true ∧
      (Instr.load 33 0x3 0 0 false false).wellFormed = true ∧
      (Pseudo.appends [' ', '~']).wellFormed = true := by decide

/-! ### Decoding, from words written out field by field (R39, R41, R46) -/

/-- R39 layout, high fields first; 95_test_vectors.md P3 line 1. -/
theorem test_decode_load :
    decode (0x1F#32 ++ 0x1F#32 ++ 0x05#32 ++ 1#1 ++ 1#1 ++ 5#6 ++ 0#8 ++ 0b00#2) =
      .load 5 0x05 0x1F 0x1F true true := by decide

/-- Every LOAD field at a place of its own: P5 line 5. -/
theorem test_decode_load_word :
    decode 0x3FFFFFFFFFFFFFFFC130476DF8000#114 =
      .load 32 0x04C11DB7 0xFFFFFFFF 0xFFFFFFFF true true := by decide

theorem test_decode_append :
    decode (0#32 ++ 0#32 ++ 0#32 ++ 0#1 ++ 0#1 ++ 0#6 ++ 0x31#8 ++ 0b01#2) = .append 0x31 := by
  decide

theorem test_decode_finish :
    decode (0#32 ++ 0#32 ++ 0#32 ++ 0#1 ++ 0#1 ++ 0#6 ++ 0#8 ++ 0b10#2) = .finish := by decide

theorem test_decode_reset :
    decode (0#32 ++ 0#32 ++ 0#32 ++ 0#1 ++ 0#1 ++ 0#6 ++ 0#8 ++ 0b11#2) = .reset := by decide

/-- P4 line 1: only `refout` of the two flags. -/
theorem test_encode_load : encode (.load 12 0x80F 0 0 false true) = 0x203E3000#114 := by decide

theorem test_table_words :
    decodeTableWord 120 0xC5 = some (.append 0x31) ∧ decodeTableWord 8 0x2 = some .finish ∧
      decodeTableWord 120 (2 ^ 114) = none := by decide

/-! ### Assembler (R46, R47) -/

theorem test_read_load_line :
    readLine "LOAD   8, 0x07, 0x00, 0x00, 0, 0 ; a comment".toList =
      some [.load 8 7 0 0 false false] := by decide

/-- Booleans are `0`/`1` (R46, log 18). -/
theorem test_flag_spelling : readLine "LOAD 8, 0x07, 0, 0, 0x1, 0".toList = none := by decide

theorem test_read_appends_line :
    readLine "APPENDS \"1;2\"".toList = some [.append 0x31, .append 0x3B, .append 0x32] := by decide

/-- A number too large for its field is rejected (log 15), the largest that fits is read. -/
theorem test_oversized_operand :
    readLine "APPEND 256".toList = none ∧ readLine "APPEND 255".toList = some [.append 0xFF] := by
  decide

/-- U5: a character outside 0x20 to 0x7E has no APPENDS expansion. -/
theorem test_appends_refuses_tab : expandPseudo (.appends ['\t']) = none := by decide

/-! ### Primitives (95_test_vectors.md section 3) -/

theorem test_reverse_bits :
    reverseBits 0x65B 24 = 0xDA6000 ∧ reverseBits 0x1FF 8 = 0xFF ∧ reverseBits 0x606 11 = 0x303 := by
  decide

theorem test_bit_length :
    bitLengthOf 0x7FF = 11 ∧ bitLengthOf 0x800 = 12 ∧ bitLengthOf 0x80000000 = 32 := by decide

theorem test_norm : norm 0xFFFFFFE5 5 = 0x5 ∧ norm 0x12345678 12 = 0x678 := by decide

/-! ### One step (95_test_vectors.md sections 4 to 8) -/

/-- The state after reset and one LOAD. -/
def loaded (w : Width) (poly init xorout : Word) (ri ro : Bool) : State :=
  { State.reset with
    engine := loadedEngine (captureParams w poly init xorout ri ro), rsp := some .ok, draws := 1 }

/-- A state with `crc` set. -/
def withCrc (c : Word) (s : State) : State := { s with engine := { s.engine with crc := c } }

def usb5 : State := loaded 5 0x05 0x1F 0x1F true true
def gsm3 : State := loaded 3 0x3 0x0 0x7 false false
def umts12 : State := loaded 12 0x80F 0x0 0x0 false true
def xmodem16 : State := loaded 16 0x1021 0x0 0x0 false false
def arc16 : State := loaded 16 0x8005 0x0 0x0 true true
def iso32 : State := loaded 32 0x04C11DB7 0xFFFFFFFF 0xFFFFFFFF true true

/-- Section 4, "over-wide operands, reflected". -/
theorem test_load_reflected :
    ∃ t, exec (.load 5 0xFFFFFFE5 0xFFFFFFFF 0xFFFFFFFF true true) State.reset = .next t ∧
      t.engine = { configured := true, P := ⟨5, 0x05, 0x1F, 0x1F, true, true⟩,
                   W := ⟨2, 0x14, 0x1F, 0x1, 0xFF⟩, crc := 0x1F } := ⟨_, rfl, by decide⟩

/-- Section 4, CRC-5/EPC-C1G2: aligned to a byte. -/
theorem test_load_sub_byte :
    ∃ t, exec (.load 5 0x9 0x9 0x0 false false) State.reset = .next t ∧
      t.engine.W = ⟨2, 0x48, 0x48, 0x80, 0xFF⟩ := ⟨_, rfl, by decide⟩

/-- Section 5.1, CRC-16/XMODEM from 0x2672. -/
theorem test_append_xmodem :
    ∃ t, exec (.append 0x32) (withCrc 0x2672 xmodem16) = .next t ∧ t.engine.crc = 0x20B5 :=
  ⟨_, rfl, by decide⟩

/-- Section 5.1, CRC-32/ISO-HDLC: a reflected register. -/
theorem test_append_iso :
    ∃ t, exec (.append 0x31) iso32 = .next t ∧ t.engine.crc = 0x7C231048 := ⟨_, rfl, by decide⟩

/-- Section 6.2: after "123" the asymmetric branch reverses 11 bits, not 12. -/
theorem test_finish_umts :
    ∃ t, exec .finish (withCrc 0x505 umts12) = .next t ∧ t.rsp = some (.result 0x505 3) ∧
      t.engine.crc = 0 := ⟨_, rfl, by decide, by decide⟩

/-- Section 5.3, CRC-32/ISO-HDLC, the source's example S1. -/
theorem test_finish_iso :
    ∃ t, exec .finish (withCrc 0x340BC6D9 iso32) = .next t ∧
      t.rsp.bind Response.text = some "0xCBF43926" ∧ t.engine.crc = 0xFFFFFFFF :=
  ⟨_, rfl, by decide, by decide⟩

/-- Section 7. -/
theorem test_reset_iso :
    ∃ t, exec .reset (withCrc 0x7C231048 iso32) = .next t ∧ t.engine.crc = 0xFFFFFFFF ∧
      t.rsp = some .ok := ⟨_, rfl, by decide, by decide⟩

/-- Section 6.4. -/
theorem test_result_text :
    resultText 0x0CE9E46C 8 = "0x0CE9E46C" ∧ resultText 0x1FF 3 = "0x1FF" ∧
      resultText 0 1 = "0x0" := by decide

/-! ### Witnesses: for each statement, states and operands that meet its hypotheses -/

/-- Three pairs of samples, one for each kind of code. -/
theorem witness_UnusedFieldsAreIgnored :
    (⟨0b00, 1, 8, 0, 0, 7, 0, 0⟩ : Command).op = (⟨0b00, 2, 8, 0, 0, 7, 0, 0⟩ : Command).op ∧
      (⟨0b01, 1, 8, 0, 0, 7, 0, 0⟩ : Command).data = (⟨0b01, 1, 9, 1, 1, 6, 5, 4⟩ : Command).data ∧
      (⟨0b10, 1, 8, 0, 0, 7, 0, 0⟩ : Command).op = (⟨0b10, 2, 9, 1, 1, 6, 5, 4⟩ : Command).op := by
  decide

theorem witness_LongerBitStringsAreRejected :
    2 ^ 114 - 1 < 2 ^ 114 ∧ decodeNat (2 ^ 114 - 1) = .ok .reset ∧
      decodeNat (2 ^ 114) = .error .bitsAboveWord := ⟨by decide, rfl, rfl⟩

theorem witness_StepRunsTheDecodedCommand :
    (∃ p rest, ({ State.reset with inputs := [present .reset] } : State).inputs = p :: rest ∧
      p.rst = false ∧ p.cmdValid = true) ∧ decodeTableWord 120 0x3 = some .reset :=
  ⟨⟨_, _, rfl, rfl, rfl⟩, by decide⟩

theorem witness_IdleStepsChangeNothing :
    State.reset.inputs = [] ∧
      ∃ p rest, ({ State.reset with inputs := [⟨false, false, Command.bare 1⟩] } : State).inputs =
        p :: rest ∧ p.rst = false ∧ p.cmdValid = false := ⟨rfl, _, _, rfl, rfl, rfl⟩

/-- A reset on a configured engine, and the LOAD that succeeds after it. -/
theorem witness_PowerOnResetUnconfigures :
    (∃ p rest, ({ usb5 with inputs := [⟨true, true, Command.bare 1⟩] } : State).inputs = p :: rest ∧
      p.rst = true) ∧
      ∃ u, exec (.load 3 0x3 0 0x7 false false) (powerOnReset usb5) = .next u ∧ u.rspErr = 0 :=
  ⟨⟨_, _, rfl, rfl⟩, _, rfl, by decide⟩

theorem witness_QueuedSamplesAreActedOnInOrder :
    ({ usb5 with inputs := [present (.append 0x31), present .finish] } : State).inputs =
      [present (.append 0x31)] ++ [present .finish] := rfl

theorem witness_UnconfiguredRegistersAreNeverRead :
    State.reset.engine.configured = false ∧
      ({ usb5.engine with configured := false } : Engine).configured = false ∧
      ∃ t, performAll [present .finish, present (.load 3 0x3 0 0x7 false false)] State.reset =
        .next t := ⟨rfl, rfl, _, rfl⟩

/-- The two ends of the legal widths (LoadStoresNormalisedParameters, LoadDerivesWorkingRegisters,
EmptyMessageResult, CalcComputesTheChecksum). -/
theorem witness_legal_widths :
    (3 ≤ (3#6).toNat ∧ (3#6).toNat ≤ 32) ∧ (3 ≤ (32#6).toNat ∧ (32#6).toNat ≤ 32) := by decide

/-- Each clause at both of its ends; no width falls under two clauses. -/
theorem witness_LoadWidthClasses :
    (3 ≤ (3#6).toNat ∧ (32#6).toNat ≤ 32) ∧ (33 ≤ (33#6).toNat ∧ 33 ≤ (63#6).toNat) ∧
      ((0#6).toNat < 3 ∧ (2#6).toNat < 3) ∧
      ∀ w : Width, (w.toNat < 3 ∨ 33 ≤ w.toNat) → ¬ (3 ≤ w.toNat ∧ w.toNat ≤ 32) := by decide

theorem witness_LoadDropsTheOldEngine :
    ∃ t t', exec (.load 3 0x3 0 0x7 false false) State.reset = .next t ∧ t.rspErr = 0 ∧
      exec (.load 3 0x3 0 0x7 false false) usb5 = .next t' := ⟨_, _, rfl, by decide, rfl⟩

/-- Also for LoadedRegistersAreBounded: a LOAD that succeeds, reflected and not. -/
theorem witness_LoadedRegistersAreBounded :
    (∃ t, exec (.load 5 0x05 0x1F 0x1F true true) State.reset = .next t ∧ t.rspErr = 0) ∧
      ∃ t, exec (.load 3 0x3 0 0x7 false false) State.reset = .next t ∧ t.rspErr = 0 :=
  ⟨⟨_, rfl, by decide⟩, _, rfl, by decide⟩

/-- A configured state in the middle of a message that meets the invariant (ReloadActsAsReset,
AppendFoldsAndShiftsEightTimes, AppendEqualsBitSerialRegister, AppendsFoldTheMessageInOrder,
FinishReportsAndRestarts, FinishValueFitsTheWidth, FinishReturnsToTheLoadedEngine,
AllOnesXorOutInvertsTheResult, ResetRestartsTheRegister, StepKeepsTheInvariant). -/
theorem witness_configured_invariant :
    (withCrc 0x3 usb5).Inv ∧ (withCrc 0x3 usb5).engine.configured = true := by decide

/-- The same for a register aligned to a byte. -/
theorem witness_configured_invariant_sub_byte :
    (withCrc 0xA0 gsm3).Inv ∧ (withCrc 0xA0 gsm3).engine.configured = true := by decide

theorem witness_StepKeepsTheInvariant :
    ({ usb5 with inputs := [present (.append 0x31)] } : State).Inv ∧
      ∃ t, step { usb5 with inputs := [present (.append 0x31)] } = .next t ∧ t.engine.crc = 0x3 :=
  ⟨by decide, _, rfl, by decide⟩

theorem witness_AppendIsLinear :
    usb5.engine.P.Legal ∧ usb5.engine.P.Holds 0x3 ∧ usb5.engine.P.Holds 0x1D := by decide

/-- Both directions of the shift. -/
theorem witness_AppendHeadroomIsEightBits :
    ((withCrc 0xA0 gsm3).engine.Inv ∧ (withCrc 0xA0 gsm3).engine.configured = true ∧
      (withCrc 0xA0 gsm3).engine.P.refIn = false) ∧
      (withCrc 0x3 usb5).engine.Inv ∧ (withCrc 0x3 usb5).engine.configured = true ∧
      (withCrc 0x3 usb5).engine.P.refIn = true := by decide

/-- Narrow register. -/
theorem witness_AppendWithZeroPolynomialOnlyShifts_narrow :
    (loaded 8 0 0x5A 0 false false).Inv ∧ (loaded 8 0 0x5A 0 false false).engine.configured = true ∧
      (loaded 8 0 0x5A 0 false false).engine.W.polynomial = 0 := by decide

/-- Wide register, reflected. -/
theorem witness_AppendWithZeroPolynomialOnlyShifts_reflected :
    (loaded 16 0 0x1234 0 true true).Inv ∧ (loaded 16 0 0x1234 0 true true).engine.configured = true ∧
      (loaded 16 0 0x1234 0 true true).engine.W.polynomial = 0 := by decide

/-- Wide register, not reflected. -/
theorem witness_AppendWithZeroPolynomialOnlyShifts_plain :
    (loaded 9 0 0x134 0 false false).Inv ∧ (loaded 9 0 0x134 0 false false).engine.configured = true ∧
      (loaded 9 0 0x134 0 false false).engine.W.polynomial = 0 := by decide

theorem witness_AppendIsPolynomialDivision :
    (withCrc 0x2672 xmodem16).Inv ∧ (withCrc 0x2672 xmodem16).engine.configured = true ∧
      (withCrc 0x2672 xmodem16).engine.P.refIn = false := by decide

theorem witness_ReflectedAppendIsTheMirrorImage :
    usb5.engine.P.Legal ∧ usb5.engine.P.refIn = true ∧ usb5.engine.P.Holds 0x1F := by decide

/-- The clause `c = 0`. -/
theorem witness_AsymmetricFinishReversesSignificantBits :
    umts12.Inv ∧ umts12.engine.configured = true ∧ umts12.engine.P.refIn = false ∧
      umts12.engine.P.refOut = true ∧ unalignedCrc umts12.engine = 0 := by decide

/-- The clause of a set top bit (the parameters are those of the witness above). -/
theorem witness_AsymmetricFinish_top_bit_set :
    (withCrc 0x9EF umts12).Inv ∧
      (unalignedCrc (withCrc 0x9EF umts12).engine).testBit 11 = true := by decide

/-- The clause of a clear top bit. -/
theorem witness_AsymmetricFinish_top_bit_clear :
    (withCrc 0x505 umts12).Inv ∧ unalignedCrc (withCrc 0x505 umts12).engine ≠ 0 ∧
      (unalignedCrc (withCrc 0x505 umts12).engine).testBit 11 = false := by decide

theorem witness_ReflectedFinishIgnoresRefOut :
    usb5.engine.configured = true ∧ usb5.engine.P.refIn = true := by decide

theorem witness_RepeatedMessageRepeatsTheResponse :
    usb5.engine.configured = true ∧ usb5.engine.crc = usb5.engine.W.init := by decide

/-- The largest value of two digits. -/
theorem witness_ResultDigitsSpellTheValue : 0xFF < 16 ^ 2 := by decide

theorem witness_ResetRestartsTheRegister :
    State.reset.engine.configured = false ∧
      (∃ t, exec (.load 3 0x3 0 0x7 false false) State.reset = .next t ∧ t.rspErr = 0) ∧
      (∃ t, exec .finish usb5 = .next t ∧ t.rspErr = 0) ∧
      (∃ t, exec .reset usb5 = .next t ∧ t.rspErr = 0) ∧ ∀ b, Instr.finish ≠ .append b :=
  ⟨rfl, ⟨_, rfl, by decide⟩, ⟨_, rfl, by decide⟩, ⟨_, rfl, by decide⟩, by intro b; nofun⟩

theorem witness_NotConfiguredIsRaisedExactlyWhenUnconfigured :
    State.reset.engine.configured = false ∧
      (∀ w p n x ri ro, Instr.finish ≠ .load w p n x ri ro) ∧
      ∃ t, exec .finish State.reset = .next t ∧ t.rspErr = 2 :=
  ⟨rfl, by intros; nofun, _, rfl, by decide⟩

/-- A next state for each arm. -/
theorem witness_ErrorResponsesByCommand :
    (∃ t, exec (.load 33 0 0 0 false false) usb5 = .next t) ∧ (∃ t, exec (.append 0) usb5 = .next t) ∧
      (∃ t, exec .finish State.reset = .next t) ∧ ∃ t, exec .reset usb5 = .next t :=
  ⟨⟨_, rfl⟩, ⟨_, rfl⟩, ⟨_, rfl⟩, _, rfl⟩

theorem witness_ErrorsLeaveNoTrace :
    (∃ t, exec (.load 33 0 0 0 false false) usb5 = .next t ∧ t.rspErr ≠ 0) ∧
      (∃ u, performAll [present .finish] usb5 = .next u) ∧
      (present .finish).rst = false ∧ (present .finish).cmdValid = true :=
  ⟨⟨_, rfl, by decide⟩, ⟨_, rfl⟩, rfl, rfl⟩

theorem witness_EveryCommandIsAnsweredOrRefused :
    (Instr.load 3 0 0 0 false false).wellFormed = true ∧
      (Instr.load 2 0 0 0 false false).wellFormed = false := by decide

theorem witness_OnlyLoadWritesMoreThanCrc :
    (∃ t, exec (.append 0x31) usb5 = .next t) ∧
      ∀ w p n x ri ro, Instr.append 0x31 ≠ .load w p n x ri ro :=
  ⟨⟨_, rfl⟩, by intros; nofun⟩

/-- A step that clears the flag and one that sets it. -/
theorem witness_ConfiguredIsSetByLoadAndClearedByReset :
    (∃ t, step { usb5 with inputs := [⟨true, false, Command.bare 0⟩] } = .next t ∧
      usb5.engine.configured = true ∧ t.engine.configured = false) ∧
      ∃ t, step { State.reset with inputs := [present (.load 3 0x3 0 0x7 false false)] } = .next t ∧
        State.reset.engine.configured = false ∧ t.engine.configured = true :=
  ⟨⟨_, rfl, rfl, rfl⟩, _, rfl, rfl, rfl⟩

theorem witness_SafeInputsRunToTheEnd :
    (∀ p ∈ [present (.load 33 0 0 0 false false), present .finish], p.Safe) ∧ State.reset.Inv := by
  decide

theorem witness_InstancesAreIndependent :
    (∃ sys', System.performAll [(0, present (.append 0x31)), (1, present .finish)]
      ⟨[usb5, gsm3]⟩ = .next sys') ∧ (System.mk [usb5, gsm3]).instances[1]? = some gsm3 :=
  ⟨⟨_, rfl⟩, rfl⟩

theorem witness_CalcComputesTheChecksum : 33 ≤ (33#6).toNat ∧ 33 ≤ (63#6).toNat := by decide

/-- The ends of one digit count, and a bound of a value. -/
theorem witness_OutLengthIsTheDigitCount :
    (3 ≤ 3 ∧ 3 ≤ 32) ∧ (outLength 4 = 1 ∧ outLength 5 = 2 ∧ outLength 32 = 8) ∧
      0x505 < 2 ^ 11 := by decide

/-- A tuple of the host's registry, CRC-5/USB. -/
def usbTuple : AlgorithmParameters := ⟨5, 0x05, 0x1F, 0x1F, true, true⟩

/-- The last clause at its two ends: width 32 and a negative width. -/
theorem witness_RegisterAddsOneNewName :
    Config.maxWidth < ({ usbTuple with width := 33 } : AlgorithmParameters).width ∧
      existsAlgorithm [("CRC-5/USB", usbTuple)] "CRC-5/USB" = true ∧
      ({ usbTuple with width := 32 } : AlgorithmParameters).width ≤ 32 ∧
      ({ usbTuple with width := -1 } : AlgorithmParameters).width ≤ 32 ∧
      existsAlgorithm [] "CRC-5/USB" = false := by decide

theorem witness_RegisteredNamesAreSortedAndExist :
    (∀ a b : String, (fun _ _ => true : String → String → Bool) a b = true ∨
      (fun _ _ => true : String → String → Bool) b a = true) ∧
      (∀ a b c : String, (fun _ _ => true : String → String → Bool) a b = true →
        (fun _ _ => true : String → String → Bool) b c = true →
        (fun _ _ => true : String → String → Bool) a c = true) ∧
      ∃ reg, seedRegistry [("CRC-5/USB", usbTuple)] = .ok reg :=
  ⟨fun _ _ => .inl rfl, fun _ _ _ _ _ => rfl, _, rfl⟩

theorem witness_CalculateReportsTheChecksumText :
    (∃ reg, seedRegistry [("CRC-5/USB", usbTuple)] = .ok reg ∧
      lookupAlgorithm reg "CRC-5/USB" = .ok usbTuple) ∧ 3 ≤ usbTuple.width ∧
      existsAlgorithm [] "CRC-5/USB" = false :=
  ⟨⟨_, rfl, rfl⟩, by decide, rfl⟩

theorem witness_InitializeNeverMeetsInvalidWidth :
    ∃ reg load t, seedRegistry [("CRC-5/USB", usbTuple)] = .ok reg ∧
      initializeEngine reg "CRC-5/USB" = .ok (some load) ∧ exec load State.reset = .next t :=
  ⟨_, _, _, rfl, rfl, rfl⟩

end Sys2Proof.Tests
end

section
/-! PROOFS. The primitives of 00_scope.md: the bits of `norm` and `reverseBits`, the least bound `bitLengthOf` and the
digit count `outLength` (R6 to R9). -/

namespace Sys2Proof.Machine

/-! ### Bits of `norm` and `reverseBits` (R6, R7) -/

@[simp] theorem testBit_norm (v n i : Nat) : (norm v n).testBit i = (decide (i < n) && v.testBit i) :=
  Nat.testBit_mod_two_pow v n i

theorem reverseBits_lt (v n : Nat) : reverseBits v n < 2 ^ n := by
  induction n generalizing v with
  | zero => simp [reverseBits_zero]
  | succ n ih =>
    have hbit : v % 2 * 2 ^ n ≤ 1 * 2 ^ n := Nat.mul_le_mul_right _ (by omega)
    have hrest := ih (v / 2)
    rw [reverseBits_succ, Nat.pow_succ]
    omega

/-- One more bit to reverse: the lowest bit of the value stands at position `n`, the reversal of the other bits
below it. -/
theorem testBit_reverseBits_succ (v n i : Nat) :
    (reverseBits v (n + 1)).testBit i =
      if i < n then (reverseBits (v / 2) n).testBit i else (v % 2).testBit (i - n) := by
  rw [reverseBits_succ, Nat.mul_comm, Nat.testBit_two_pow_mul_add _ (reverseBits_lt _ _)]

@[simp] theorem testBit_reverseBits (v n i : Nat) :
    (reverseBits v n).testBit i = (decide (i < n) && v.testBit (n - 1 - i)) := by
  induction n generalizing v with
  | zero => simp [reverseBits_zero]
  | succ n ih =>
    rw [testBit_reverseBits_succ]
    rcases Nat.lt_trichotomy i n with hlt | rfl | hgt
    · have hpos : n - i = (n - 1 - i) + 1 := by omega
      simp [hlt, Nat.lt_succ_of_lt hlt, ih, hpos, Nat.testBit_succ]
    · simp [Nat.testBit_zero]
    · have hpos : i - n = (i - n - 1) + 1 := by omega
      have habove : ¬i < n + 1 := by omega
      rw [if_neg hgt.not_gt, hpos, Nat.testBit_succ, Nat.mod_div_self]
      simp [habove]

/-- Reversal of `n` bits is its own inverse on values of `n` bits. -/
theorem reverseBits_reverseBits (v n : Nat) : reverseBits (reverseBits v n) n = norm v n := by
  refine Nat.eq_of_testBit_eq fun i => ?_
  by_cases hi : i < n
  · have hback : n - 1 - (n - 1 - i) = i := by omega
    have hmirror : n - 1 - i < n := by omega
    simp [hi, hback, hmirror]
  · simp [hi]

/-! ### The least bound (R8) -/

theorem bitLengthOf_le_iff (v n : Nat) : bitLengthOf v ≤ n ↔ v < 2 ^ n := by
  rcases Nat.eq_zero_or_pos v with rfl | hv
  · simp [bitLengthOf_zero]
  · have hne : v ≠ 0 := by omega
    rw [bitLengthOf_of_ne_zero hne, Nat.succ_le_iff, Nat.log2_lt hne]

theorem lt_two_pow_bitLengthOf (v : Nat) : v < 2 ^ bitLengthOf v :=
  (bitLengthOf_le_iff v _).mp le_rfl

/-! ### The digit count (R9) -/

theorem le_four_mul_outLength (w : Nat) : w ≤ 4 * outLength w := by
  unfold outLength
  omega

theorem four_mul_outLength_lt (w : Nat) : 4 * outLength w < w + 4 := by
  unfold outLength
  omega

/-! ### The obligations -/

/-- Settles O48: reading bit `i` off the recursion gives bit `n - 1 - i` of the value; the bound and the involution
follow. -/
theorem reverseBitsReversesTheLowBits : Obligations.ReverseBitsReversesTheLowBits := by
  have hbits (v n i : Nat) :
      (reverseBits v n).testBit i = (decide (i < n) && (norm v n).testBit (n - 1 - i)) := by
    by_cases hi : i < n
    · have hmirror : n - 1 - i < n := by omega
      simp [hi, hmirror]
    · simp [hi]
  exact ⟨hbits, reverseBits_lt, reverseBits_reverseBits, reverseBits_zero,
    by decide, by decide, by decide, by decide⟩

/-- Settles O49: `bitLengthOf v ≤ n` says exactly that `v` fits in `n` bits. -/
theorem bitLengthIsTheLeastBound : Obligations.BitLengthIsTheLeastBound :=
  ⟨fun v => ⟨lt_two_pow_bitLengthOf v, fun n => (bitLengthOf_le_iff v n).mpr⟩,
    by decide, by decide, by decide, by decide, by decide⟩

/-- Settles O50: the two bounds say that `outLength` is the ceiling of `width / 4`, and they fix the digit count on
each row of the table. -/
theorem outLengthIsTheDigitCount : Obligations.OutLengthIsTheDigitCount := by
  refine ⟨fun w => ⟨le_four_mul_outLength w, four_mul_outLength_lt w⟩, fun k _ _ w _ _ => ?_⟩
  have hle := le_four_mul_outLength w
  have hlt := four_mul_outLength_lt w
  constructor
  · rintro rfl
    omega
  · intro hrow
    omega

end Sys2Proof.Machine
end

section
/-! PROOFS. The registers a successful LOAD leaves (10_state.md R15 to R20, R23, 40_load.md R51, R52): what each derived
register is as a number, and the bounds and the alignment of R24 and R25, which `adjust` meets for every value of
`width` bits. The register has `max width 8` bits (R20). -/

namespace Sys2Proof.Machine

/-! ### Legal parameters (R15, R44, R51) -/

theorem legalWidth_iff (w : Width) : legalWidth w = true ↔ 3 ≤ w.toNat ∧ w.toNat ≤ 32 := by
  rw [legalWidth, Bool.and_eq_true, decide_eq_true_eq, decide_eq_true_eq]
  rfl

theorem width_le_of_legal {p : Params} (h : p.Legal) : p.width.toNat ≤ 32 :=
  ((legalWidth_iff _).mp h.1).2

theorem toNat_ofNat_of_lt {v : Nat} (h : v < 2 ^ 32) : (BitVec.ofNat 32 v).toNat = v := by
  rw [BitVec.toNat_ofNat, Nat.mod_eq_of_lt h]

theorem two_pow_le_word {n : Nat} (hn : n ≤ 32) : 2 ^ n ≤ 2 ^ 32 := Nat.pow_le_pow_right two_pos hn

/-- A word reduced to at most 32 bits is stored without loss (R51). -/
theorem toNat_ofNat_norm {n : Nat} (v : Nat) (hn : n ≤ 32) :
    (BitVec.ofNat 32 (norm v n)).toNat = norm v n :=
  toNat_ofNat_of_lt ((norm_lt v n).trans_le (two_pow_le_word hn))

theorem captureParams_legal {w : Width} (poly init xorout : Word) (ri ro : Bool)
    (hlo : 3 ≤ w.toNat) (hhi : w.toNat ≤ 32) :
    (captureParams w poly init xorout ri ro).Legal := by
  have hbound (v : Word) : (BitVec.ofNat 32 (norm v.toNat w.toNat)).toNat < 2 ^ w.toNat := by
    rw [toNat_ofNat_norm _ hhi]
    exact norm_lt _ _
  exact ⟨(legalWidth_iff w).mpr ⟨hlo, hhi⟩, hbound poly, hbound init, hbound xorout⟩

/-! ### Alignment (R25), by the direction of the input -/

theorem aligned_of_reflected {p : Params} (hri : p.refIn = true) (c : Nat) :
    p.Aligned c ↔ c < 2 ^ p.width.toNat := by
  simp [Params.Aligned, hri]

theorem aligned_of_plain {p : Params} (hri : p.refIn = false) (c : Nat) :
    p.Aligned c ↔ (p.width.toNat < 8 → c % 2 ^ (8 - p.width.toNat) = 0) := by
  simp [Params.Aligned, hri]

/-! ### The working registers as numbers (R16 to R20) -/

section
variable {p : Params} (hhi : p.width.toNat ≤ 32)
include hhi

theorem toNat_maskOf : (maskOf p).toNat = 2 ^ max p.width.toNat 8 - 1 := by
  have hpow := two_pow_le_word hhi
  unfold maskOf
  split
  · rw [max_eq_right ‹_›]
    rfl
  · rw [max_eq_left (by omega), toNat_ofNat_of_lt (by omega)]

theorem le_maskOf_iff (c : Nat) : c ≤ (maskOf p).toNat ↔ c < 2 ^ max p.width.toNat 8 := by
  have hpos := Nat.two_pow_pos (max p.width.toNat 8)
  rw [toNat_maskOf hhi]
  omega

/-- `W.check` has one bit set: the one a shift step moves out of the register (R19). -/
theorem toNat_checkOf :
    (checkOf p).toNat = 2 ^ (if p.refIn then 0 else max p.width.toNat 8 - 1) := by
  unfold checkOf
  cases p.refIn with
  | true => rfl
  | false =>
    simp only [Bool.false_eq_true, if_false]
    split
    · rw [max_eq_right ‹_›]
      rfl
    · rw [max_eq_left (by omega),
        toNat_ofNat_of_lt (Nat.pow_lt_pow_right one_lt_two (by omega))]

theorem checkOf_le_maskOf : (checkOf p).toNat ≤ (maskOf p).toNat := by
  rw [le_maskOf_iff hhi, toNat_checkOf hhi]
  exact Nat.pow_lt_pow_right one_lt_two (by split <;> omega)

/-- R16: the digit count fits its 4-bit register. -/
theorem toNat_outlen : (deriveWork p).outlen.toNat = outLength p.width.toNat := by
  have hlt := four_mul_outLength_lt p.width.toNat
  rw [deriveWork_outlen, BitVec.toNat_ofNat, Nat.mod_eq_of_lt (by omega)]

section
variable {v : Word} (hv : v.toNat < 2 ^ p.width.toNat)
include hv

omit hhi in
/-- Aligned to a byte, a sub-byte value still fits it. -/
theorem aligned_lt_byte (hw : p.width.toNat < 8) : v.toNat * 2 ^ (8 - p.width.toNat) < 2 ^ 8 :=
  calc v.toNat * 2 ^ (8 - p.width.toNat)
      < 2 ^ p.width.toNat * 2 ^ (8 - p.width.toNat) := Nat.mul_lt_mul_of_pos_right hv (Nat.two_pow_pos _)
    _ = 2 ^ 8 := by rw [← Nat.pow_add, Nat.add_sub_cancel' hw.le]

/-- R17, R18: no bit of the adjusted value is lost in its 32-bit register. -/
theorem toNat_adjust :
    (adjust p v).toNat =
      if p.refIn then reverseBits v.toNat p.width.toNat
      else if p.width.toNat < 8 then v.toNat * 2 ^ (8 - p.width.toNat) else v.toNat := by
  have hpow := two_pow_le_word hhi
  unfold adjust
  split
  · exact toNat_ofNat_of_lt ((reverseBits_lt _ _).trans_le hpow)
  · split
    · have hbyte := aligned_lt_byte hv ‹_›
      rw [Nat.shiftLeft_eq, toNat_ofNat_of_lt (by omega)]
    · rfl

/-- R23: an adjusted value of `width` bits is one that `crc` may hold. -/
theorem holds_adjust : p.Holds (adjust p v).toNat := by
  have hsize : 2 ^ p.width.toNat ≤ 2 ^ max p.width.toNat 8 :=
    Nat.pow_le_pow_right two_pos (le_max_left _ _)
  rw [Params.Holds, le_maskOf_iff hhi, toNat_adjust hhi hv]
  cases hri : p.refIn with
  | true =>
    have hrev := reverseBits_lt v.toNat p.width.toNat
    exact ⟨hrev.trans_le hsize, (aligned_of_reflected hri _).mpr hrev⟩
  | false =>
    rw [aligned_of_plain hri]
    by_cases hw : p.width.toNat < 8
    · have hbyte := aligned_lt_byte hv hw
      simpa [hw, max_eq_right hw.le] using hbyte
    · simp [hw, hv.trans_le hsize]

end
end

theorem holds_adjust_polynomial {p : Params} (h : p.Legal) : p.Holds (adjust p p.polynomial).toNat := by
  have hhi := width_le_of_legal h
  obtain ⟨-, hpoly, -, -⟩ := h
  exact holds_adjust hhi hpoly

theorem holds_adjust_init {p : Params} (h : p.Legal) : p.Holds (adjust p p.init).toNat := by
  have hhi := width_le_of_legal h
  obtain ⟨-, -, hinit, -⟩ := h
  exact holds_adjust hhi hinit

/-! ### LOAD on a legal width (R51, R52) -/

theorem execLoad_of_legal {w : Width} (poly init xorout : Word) (ri ro : Bool) (s : State)
    (hlo : 3 ≤ w.toNat) (hhi : w.toNat ≤ 32) :
    execLoad w poly init xorout ri ro s = .next (respondOk
      { s with engine := loadedEngine (captureParams w poly init xorout ri ro) }) := by
  have hgate : ¬Config.maxWidth < w.toNat := by rw [Config.maxWidth]; omega
  have hmin : ¬w.toNat < Config.minWidth := by rw [Config.minWidth]; omega
  simp [execLoad, hgate, reservedWidth, hmin]

/-- A LOAD that responds OK has a legal width and leaves the loaded engine. -/
theorem execLoad_success {w : Width} {poly init xorout : Word} {ri ro : Bool} {s t : State}
    (h : execLoad w poly init xorout ri ro s = .next t) (hok : t.rspErr = 0) :
    3 ≤ w.toNat ∧ w.toNat ≤ 32 ∧
      t.engine = loadedEngine (captureParams w poly init xorout ri ro) := by
  obtain ⟨-, hraise⟩ | ⟨hlo, hhi, rfl⟩ := execLoad_cases h
  · obtain ⟨-, hrsp, -⟩ := raise_eq_next hraise
    exact absurd (rspErr_error hrsp ▸ hok) (code_ne_zero _)
  · exact ⟨hlo, hhi, rfl⟩

/-! ### The obligations -/

/-- Settles O14: each working register is the number its rule gives, since a legal LOAD stores operands of `width`
bits. -/
theorem loadDerivesWorkingRegisters : Obligations.LoadDerivesWorkingRegisters := by
  intro w poly init xorout ri ro s hlo hhi
  obtain ⟨-, hpoly, hinit, -⟩ := captureParams_legal poly init xorout ri ro hlo hhi
  have hdigits : (deriveWork (captureParams w poly init xorout ri ro)).outlen.toNat =
      (w.toNat + 3) / 4 := toNat_outlen hhi
  refine ⟨_, execLoad_of_legal poly init xorout ri ro s hlo hhi, toNat_adjust hhi hpoly,
    toNat_adjust hhi hinit, (toNat_checkOf hhi).trans ?check, (toNat_maskOf hhi).trans ?mask, hdigits,
    ?one, ?eight, rfl, rfl, rfl⟩
  case check =>
    rw [captureParams_refIn, captureParams_width]
    cases ri with
    | true => rfl
    | false => by_cases hw : w.toNat ≤ 8 <;> simp [hw, le_of_not_ge]
  case mask => by_cases hw : w.toNat ≤ 8 <;> simp [hw, le_of_not_ge]
  case one => exact hdigits ▸ (by omega : 1 ≤ (w.toNat + 3) / 4)
  case eight => exact hdigits ▸ (by omega : (w.toNat + 3) / 4 ≤ 8)

/-- Settles O18: polynomial and initial value are adjusted operands of `width` bits, and the check bit lies in the
register. -/
theorem loadedRegistersAreBounded : Obligations.LoadedRegistersAreBounded := by
  intro w poly init xorout ri ro s t h hok
  obtain ⟨hlo, hhi, hengine⟩ := execLoad_success h hok
  have hlegal := captureParams_legal poly init xorout ri ro hlo hhi
  obtain ⟨hpolyle, hpolyPlain, hpolyRefl⟩ := holds_adjust_polynomial hlegal
  obtain ⟨hinitle, hinitPlain, hinitRefl⟩ := holds_adjust_init hlegal
  obtain ⟨-, -, -, hxor⟩ := hlegal
  have hsize : 2 ^ w.toNat ≤ (maskOf (captureParams w poly init xorout ri ro)).toNat + 1 := by
    rw [toNat_maskOf hhi, Nat.sub_add_cancel Nat.one_le_two_pow]
    exact Nat.pow_le_pow_right two_pos (le_max_left _ _)
  rw [hengine]
  exact ⟨hpolyle, hinitle, checkOf_le_maskOf hhi, ⟨_, toNat_checkOf hhi⟩, hxor, hsize,
    fun hri hw => ⟨hpolyPlain hri hw, hinitPlain hri hw⟩, fun hri => ⟨hpolyRefl hri, hinitRefl hri⟩⟩

end Sys2Proof.Machine
end

section
/-! PROOFS. What one command can do, said once for `exec`, and the two frame rules that follow: which registers a
command may write (10_state.md R12, R14) and which steps change `configured` (R11). -/

namespace Sys2Proof.Machine

/-- A command that goes on raises an error, or it is a LOAD of legal width, or it runs on a configured engine. -/
theorem exec_cases {i : Instr} {s t : State} (h : exec i s = .next t) :
    (∃ k, raise k s = .next t) ∨
      (∃ w poly init xorout ri ro, i = .load w poly init xorout ri ro ∧ 3 ≤ w.toNat ∧ w.toNat ≤ 32 ∧
        t = respondOk { s with engine := loadedEngine (captureParams w poly init xorout ri ro) }) ∨
      s.engine.configured = true ∧
        ((∃ b, i = .append b ∧ t = respondOk { s with engine := appendedEngine s.engine b }) ∨
          (i = .finish ∧ t = respondResult (BitVec.ofNat 32 (finishValue s.engine)) s.engine.W.outlen
            { s with engine := s.engine.restart }) ∨
          (i = .reset ∧ t = respondOk { s with engine := s.engine.restart })) := by
  cases i with
  | load w poly init xorout ri ro =>
    obtain ⟨-, hraise⟩ | ⟨hlo, hhi, ht⟩ := execLoad_cases h
    · exact .inl ⟨_, hraise⟩
    · exact .inr (.inl ⟨w, poly, init, xorout, ri, ro, rfl, hlo, hhi, ht⟩)
  | append b =>
    obtain ⟨hc, ht⟩ | ⟨-, hraise⟩ := execAppend_cases h
    · exact .inr (.inr ⟨hc, .inl ⟨b, rfl, ht⟩⟩)
    · exact .inl ⟨_, hraise⟩
  | finish =>
    obtain ⟨hc, ht⟩ | ⟨-, hraise⟩ := execFinish_cases h
    · exact .inr (.inr ⟨hc, .inr (.inl ⟨rfl, ht⟩)⟩)
    · exact .inl ⟨_, hraise⟩
  | reset =>
    obtain ⟨hc, ht⟩ | ⟨-, hraise⟩ := execReset_cases h
    · exact .inr (.inr ⟨hc, .inr (.inr ⟨rfl, ht⟩)⟩)
    · exact .inl ⟨_, hraise⟩

/-- A command clears `configured` never, and sets it only as a LOAD that succeeds (R11). -/
theorem exec_configured {i : Instr} {s t : State} (h : exec i s = .next t) :
    t.engine.configured = s.engine.configured ∨
      t.engine.configured = true ∧ t.rsp = some .ok ∧
        ∃ w poly init xorout ri ro, i = .load w poly init xorout ri ro ∧ legalWidth w = true := by
  obtain ⟨k, hraise⟩ | ⟨w, poly, init, xorout, ri, ro, hi, hlo, hhi, rfl⟩ |
    ⟨-, ⟨b, -, rfl⟩ | ⟨-, rfl⟩ | ⟨-, rfl⟩⟩ := exec_cases h
  · exact .inl (congrArg Engine.configured (raise_eq_next hraise).1)
  · exact .inr ⟨rfl, rfl, w, poly, init, xorout, ri, ro, hi, (legalWidth_iff w).mpr ⟨hlo, hhi⟩⟩
  · exact .inl rfl
  · exact .inl rfl
  · exact .inl rfl

/-- Settles O41, by the cases of `exec`: only the case of LOAD writes registers other than `crc`. -/
theorem onlyLoadWritesMoreThanCrc : Obligations.OnlyLoadWritesMoreThanCrc := by
  intro i s t h
  obtain ⟨k, hraise⟩ | ⟨w, poly, init, xorout, ri, ro, rfl, -, -, rfl⟩ |
    ⟨-, ⟨b, -, rfl⟩ | ⟨-, rfl⟩ | ⟨-, rfl⟩⟩ := exec_cases h
  · obtain ⟨hengine, -, hstream, -, hinputs⟩ := raise_eq_next hraise
    simp [hengine, hstream, hinputs]
  · exact ⟨rfl, rfl, fun hload => absurd rfl (hload w poly init xorout ri ro)⟩
  · exact ⟨rfl, rfl, fun _ => ⟨rfl, rfl, rfl⟩⟩
  · exact ⟨rfl, rfl, fun _ => ⟨rfl, rfl, rfl⟩⟩
  · exact ⟨rfl, rfl, fun _ => ⟨rfl, rfl, rfl⟩⟩

/-- Settles O42: a step with a sample is a power-on reset, a command or idle, and of these only the reset clears the
flag and only a LOAD sets it. -/
theorem configuredIsSetByLoadAndClearedByReset :
    Obligations.ConfiguredIsSetByLoadAndClearedByReset := by
  intro s t p rest hinputs hstep
  obtain ⟨hnil, -⟩ | ⟨_, _, hcons, htransact⟩ := step_cases hstep
  · simp [hnil] at hinputs
  obtain ⟨rfl, rfl⟩ := List.cons.inj (hinputs.symm.trans hcons)
  obtain ⟨hrst, rfl⟩ | ⟨hrst, hvalid, hexec⟩ | ⟨-, -, rfl⟩ := transact_cases htransact
  · exact ⟨fun _ _ => hrst, by simp⟩
  · obtain hsame | ⟨hset, hok, hload⟩ := exec_configured hexec
    · simp_all
    · exact ⟨by simp [hset], fun _ _ => ⟨hrst, hvalid, hok, hload⟩⟩
  · simp_all

end Sys2Proof.Machine
end

section
/-! PROOFS. Every step keeps the invariant (10_state.md R15, R22 to R25, 42_finish_reset.md R64, R65). The work is in
two values: what the eight shift steps of APPEND leave in `crc`, and what FINISH reports. -/

namespace Sys2Proof.Machine

theorem two_pow_dvd_xor {a b n : Nat} (ha : 2 ^ n ∣ a) (hb : 2 ^ n ∣ b) : 2 ^ n ∣ a ^^^ b := by
  rw [Nat.dvd_iff_mod_eq_zero] at *
  rw [Nat.xor_mod_two_pow, ha, hb, Nat.xor_self]

/-! ### The shift steps of APPEND (R55) -/

/-- A reflected shift step moves the register one bit down, but not below the bits of the polynomial. -/
theorem shiftStep_lt {e : Engine} {c m n : Nat} (hri : e.P.refIn = true)
    (hpoly : e.W.polynomial.toNat < 2 ^ m) (hc : c < 2 ^ (n + 1)) :
    shiftStep e c < 2 ^ max m n := by
  have hshift : c >>> 1 < 2 ^ max m n := by
    have hn : 2 ^ n ≤ 2 ^ max m n := Nat.pow_le_pow_right two_pos (le_max_right _ _)
    rw [Nat.shiftRight_one]
    omega
  have hm : 2 ^ m ≤ 2 ^ max m n := Nat.pow_le_pow_right two_pos (le_max_left _ _)
  simp only [shiftStep, hri, if_true]
  split
  · exact Nat.xor_lt_two_pow hshift (hpoly.trans_le hm)
  · exact hshift

theorem iterate_shiftStep_lt {e : Engine} {c m n : Nat} (hri : e.P.refIn = true)
    (hpoly : e.W.polynomial.toNat < 2 ^ m) (hc : c < 2 ^ max m n) (k : Nat) :
    (shiftStep e)^[k] c < 2 ^ max m (n - k) := by
  induction k with
  | zero => exact hc
  | succ k ih =>
    have hsucc : 2 ^ max m (n - k) ≤ 2 ^ (max m (n - (k + 1)) + 1) :=
      Nat.pow_le_pow_right two_pos (by omega)
    have hstep := shiftStep_lt hri hpoly (ih.trans_le hsucc)
    rwa [← Function.iterate_succ_apply' (shiftStep e), max_eq_right (le_max_left _ _)] at hstep

/-- A non-reflected shift step clears one more low bit, as far as the polynomial is aligned. -/
theorem two_pow_dvd_shiftStep {e : Engine} {c a j : Nat} (hri : e.P.refIn = false)
    (hpoly : 2 ^ a ∣ e.W.polynomial.toNat) (hc : 2 ^ min a j ∣ c) :
    2 ^ min a (j + 1) ∣ shiftStep e c := by
  have hshift : 2 ^ min a (j + 1) ∣ c <<< 1 := by
    rw [Nat.shiftLeft_eq]
    exact (Nat.pow_dvd_pow 2 (by omega : min a (j + 1) ≤ min a j + 1)).trans
      (Nat.mul_dvd_mul_right hc 2)
  simp only [shiftStep, hri, Bool.false_eq_true, if_false]
  split
  · exact two_pow_dvd_xor hshift ((Nat.pow_dvd_pow 2 (min_le_left _ _)).trans hpoly)
  · exact hshift

theorem two_pow_dvd_iterate_shiftStep {e : Engine} {a : Nat} (hri : e.P.refIn = false)
    (hpoly : 2 ^ a ∣ e.W.polynomial.toNat) (c k : Nat) :
    2 ^ min a k ∣ (shiftStep e)^[k] c := by
  induction k with
  | zero => simp
  | succ k ih =>
    rw [Function.iterate_succ_apply']
    exact two_pow_dvd_shiftStep hri hpoly ih

/-! ### The value APPEND writes (R55) -/

theorem toNat_appendedCrc (e : Engine) (b : Byte) :
    (appendedCrc e b).toNat = appendRaw e b &&& e.W.mask.toNat :=
  toNat_ofNat_of_lt (Nat.and_le_right.trans_lt e.W.mask.isLt)

/-- For reflected input the folded byte lies in the low eight bits of the register (R31). -/
theorem foldOf_lt_of_reflected {e : Engine} (hri : e.P.refIn = true) (b : Byte) :
    foldOf e b < 2 ^ 8 := by
  simp only [foldOf, hri, if_true]
  split
  · exact b.isLt
  · exact Nat.and_le_left.trans_lt b.isLt

/-- Reflected input: eight shift steps move the folded byte out of the register. -/
theorem appendRaw_lt {e : Engine} (hri : e.P.refIn = true)
    (hpoly : e.P.Aligned e.W.polynomial.toNat) (hc : e.P.Aligned e.crc.toNat) (b : Byte) :
    appendRaw e b < 2 ^ e.P.width.toNat := by
  rw [aligned_of_reflected hri] at hpoly hc
  have hfolded : e.crc.toNat ^^^ foldOf e b < 2 ^ max e.P.width.toNat 8 :=
    Nat.xor_lt_two_pow (hc.trans_le (Nat.pow_le_pow_right two_pos (le_max_left _ _)))
      ((foldOf_lt_of_reflected hri b).trans_le (Nat.pow_le_pow_right two_pos (le_max_right _ _)))
  have hraw : appendRaw e b < 2 ^ max e.P.width.toNat (8 - 8) :=
    iterate_shiftStep_lt hri hpoly hfolded 8
  rwa [Nat.sub_self, Nat.max_zero] at hraw

/-- Non-reflected input: eight shift steps clear the alignment bits of a sub-byte register. -/
theorem two_pow_dvd_appendRaw {e : Engine} (hri : e.P.refIn = false)
    (hpoly : e.P.Aligned e.W.polynomial.toNat) (hw : e.P.width.toNat < 8) (b : Byte) :
    2 ^ (8 - e.P.width.toNat) ∣ appendRaw e b := by
  have hdvd := Nat.dvd_of_mod_eq_zero ((aligned_of_plain hri _).mp hpoly hw)
  have hraw : 2 ^ min (8 - e.P.width.toNat) 8 ∣ appendRaw e b :=
    two_pow_dvd_iterate_shiftStep hri hdvd _ 8
  rwa [min_eq_left (Nat.sub_le _ _)] at hraw

/-! ### A configured engine at a command boundary (R22 to R25) -/

section
variable {e : Engine} (hlegal : e.P.Legal) (hwork : e.W = deriveWork e.P)
  (hcrc : e.P.Holds e.crc.toNat)
include hlegal hwork

/-- The adjusted polynomial has the alignment R25 asks of the register. -/
theorem aligned_polynomial : e.P.Aligned e.W.polynomial.toNat := by
  rw [hwork]
  exact (holds_adjust_polynomial hlegal).2

include hcrc in
/-- R24, R25: `crc` keeps its bound and its alignment. -/
theorem holds_appendedCrc (b : Byte) : e.P.Holds (appendedCrc e b).toNat := by
  have hpoly := aligned_polynomial hlegal hwork
  rw [toNat_appendedCrc]
  refine ⟨by rw [hwork]; exact Nat.and_le_right, ?_⟩
  cases hri : e.P.refIn with
  | true =>
    rw [aligned_of_reflected hri]
    exact Nat.and_le_left.trans_lt (appendRaw_lt hri hpoly hcrc.2 b)
  | false =>
    rw [aligned_of_plain hri]
    intro hw
    have hlow := Nat.mod_eq_zero_of_dvd (two_pow_dvd_appendRaw hri hpoly hw b)
    rw [Nat.and_mod_two_pow, hlow, Nat.zero_and]

/-! ### The value FINISH reports (R60 to R65) -/

omit hwork
include hcrc

/-- R61: without its alignment the register has `width` bits. -/
theorem unalignedCrc_lt : unalignedCrc e < 2 ^ e.P.width.toNat := by
  obtain ⟨hle, haligned⟩ := hcrc
  rw [le_maskOf_iff (width_le_of_legal hlegal)] at hle
  unfold unalignedCrc
  split
  next hsub =>
    have hbyte : 2 ^ e.P.width.toNat * 2 ^ (8 - e.P.width.toNat) = 2 ^ max e.P.width.toNat 8 := by
      rw [← Nat.pow_add]; congr 1; omega
    rw [Nat.shiftRight_eq_div_pow, Nat.div_lt_iff_lt_mul (Nat.two_pow_pos _), hbyte]
    exact hle
  next hsub =>
    by_cases hri : e.P.refIn = true
    · exact (aligned_of_reflected hri _).mp haligned
    · have hw : ¬e.P.width.toNat < 8 := fun hw => hsub ⟨hw, by simpa using hri⟩
      rwa [max_eq_left (by omega)] at hle

/-- R64: whatever branch FINISH takes, the value fits `width` bits. -/
theorem finishValue_lt : finishValue e < 2 ^ e.P.width.toNat := by
  have hc := unalignedCrc_lt hlegal hcrc
  obtain ⟨-, -, -, hxor⟩ := hlegal
  unfold finishValue
  split
  · have hlen : bitLengthOf (unalignedCrc e &&& e.W.mask.toNat) ≤ e.P.width.toNat :=
      (bitLengthOf_le_iff _ _).mpr (Nat.and_le_left.trans_lt hc)
    have hrev := (reverseBits_lt (unalignedCrc e &&& e.W.mask.toNat) _).trans_le
      (Nat.pow_le_pow_right two_pos hlen)
    exact Nat.xor_lt_two_pow hrev hxor
  · exact Nat.and_le_left.trans_lt (Nat.xor_lt_two_pow hc hxor)

include hwork

/-- R65: the value fits the 1 to 8 digits reported with it. -/
theorem fits_finishValue :
    (Response.result (BitVec.ofNat 32 (finishValue e)) e.W.outlen).fits = true := by
  have hvalue := finishValue_lt hlegal hcrc
  have hhi := width_le_of_legal hlegal
  obtain ⟨hlo, -⟩ := (legalWidth_iff _).mp hlegal.1
  have hle := le_four_mul_outLength e.P.width.toNat
  have hlt := four_mul_outLength_lt e.P.width.toNat
  have hdigits : 2 ^ e.P.width.toNat ≤ 16 ^ outLength e.P.width.toNat := by
    rw [show 16 = 2 ^ 4 from rfl, ← Nat.pow_mul]
    exact Nat.pow_le_pow_right two_pos hle
  rw [Response.fits, hwork, toNat_outlen hhi,
    toNat_ofNat_of_lt (hvalue.trans_le (two_pow_le_word hhi))]
  simp only [Bool.and_eq_true, decide_eq_true_eq]
  omega

end

/-! ### The invariant, operation by operation -/

theorem loadedEngine_inv {p : Params} (hlegal : p.Legal) : (loadedEngine p).Inv :=
  fun _ => ⟨hlegal, rfl, holds_adjust_init hlegal⟩

theorem appendedEngine_inv {e : Engine} (h : e.Inv) (b : Byte) : (appendedEngine e b).Inv := by
  intro hc
  obtain ⟨hlegal, hwork, hcrc⟩ := h hc
  exact ⟨hlegal, hwork, holds_appendedCrc hlegal hwork hcrc b⟩

theorem restart_inv {e : Engine} (h : e.Inv) : e.restart.Inv := by
  intro hc
  obtain ⟨hlegal, hwork, -⟩ := h hc
  refine ⟨hlegal, hwork, ?_⟩
  rw [restart_crc, hwork]
  exact holds_adjust_init hlegal

/-- A new response that fits stands beside an engine that meets its invariant. -/
theorem inv_of_rsp {t : State} {r : Response} (hrsp : t.rsp = some r) (hengine : t.engine.Inv)
    (hfits : r.fits = true) : t.Inv :=
  ⟨hengine, by simp [hrsp, hfits]⟩

theorem powerOnReset_inv (s : State) : (powerOnReset s).Inv :=
  ⟨by simp [Engine.Inv], by simp⟩

theorem exec_inv {i : Instr} {s t : State} (hs : s.Inv) (h : exec i s = .next t) : t.Inv := by
  obtain ⟨hengine, -⟩ := hs
  obtain ⟨k, hraise⟩ | ⟨w, poly, init, xorout, ri, ro, -, hlo, hhi, rfl⟩ |
    ⟨hc, ⟨b, -, rfl⟩ | ⟨-, rfl⟩ | ⟨-, rfl⟩⟩ := exec_cases h
  · obtain ⟨hsame, hrsp, -⟩ := raise_eq_next hraise
    exact inv_of_rsp hrsp (hsame ▸ hengine) rfl
  · exact inv_of_rsp rfl (loadedEngine_inv (captureParams_legal poly init xorout ri ro hlo hhi)) rfl
  · exact inv_of_rsp rfl (appendedEngine_inv hengine b) rfl
  · obtain ⟨hlegal, hwork, hcrc⟩ := hengine hc
    exact inv_of_rsp rfl (restart_inv hengine) (fits_finishValue hlegal hwork hcrc)
  · exact inv_of_rsp rfl (restart_inv hengine) rfl

theorem transact_inv {p : Ports} {s t : State} (hs : s.Inv) (h : transact p s = .next t) :
    t.Inv := by
  obtain ⟨-, rfl⟩ | ⟨-, -, hexec⟩ | ⟨-, -, rfl⟩ := transact_cases h
  · exact powerOnReset_inv s
  · exact exec_inv hs hexec
  · exact hs

/-- Settles O43: a step is idle or one transaction, and taking a sample off the inputs touches no register. -/
theorem stepKeepsTheInvariant : Obligations.StepKeepsTheInvariant := by
  intro s t hs h
  obtain ⟨-, rfl⟩ | ⟨p, rest, -, htransact⟩ := step_cases h
  · exact hs
  · exact transact_inv (s := { s with inputs := rest }) hs htransact

end Sys2Proof.Machine
end

section
/-! PROOFS. Before the first successful LOAD nothing reads a register but `configured` (10_state.md R26): two states
that differ in the engine alone, both unconfigured, go on alike until a LOAD makes their engines equal. -/

namespace Sys2Proof.Machine

/-- Two engines no transaction tells apart: equal, or both unconfigured. -/
def Engine.Alike (e f : Engine) : Prop :=
  e = f ∨ e.configured = false ∧ f.configured = false

theorem raise_withEngine {k : ErrorKind} {s t : State} (h : raise k s = .next t) (e : Engine) :
    raise k { s with engine := e } = .next { t with engine := e } := by
  cases h
  rfl

/-- On an unconfigured engine the guarded commands raise `NotConfigured` (R83), whatever the other registers hold. -/
theorem whenConfigured_alike {s t : State} {e : Engine} {act : Result} (actE : Result)
    (h : whenConfigured s act = .next t) (hs : s.engine.configured = false)
    (he : e.configured = false) :
    ∃ f, whenConfigured { s with engine := e } actE = .next { t with engine := f } ∧
      f.Alike t.engine := by
  rw [whenConfigured_of_unconfigured hs] at h
  obtain ⟨hengine, -⟩ := raise_eq_next h
  refine ⟨e, ?_, .inr ⟨he, hengine ▸ hs⟩⟩
  rw [whenConfigured_of_unconfigured he, raise_withEngine h]

/-- A LOAD raises `InvalidWidth` whatever the engine holds, or leaves an engine of its operands alone. -/
theorem exec_alike {i : Instr} {s t : State} {e : Engine} (h : exec i s = .next t)
    (hs : s.engine.configured = false) (he : e.configured = false) :
    ∃ f, exec i { s with engine := e } = .next { t with engine := f } ∧ f.Alike t.engine := by
  cases i with
  | load w poly init xorout ri ro =>
    obtain ⟨hwide, hraise⟩ | ⟨hlo, hhi, rfl⟩ := execLoad_cases h
    · obtain ⟨hengine, -⟩ := raise_eq_next hraise
      exact ⟨e, (if_pos hwide).trans (raise_withEngine hraise e), .inr ⟨he, hengine ▸ hs⟩⟩
    · exact ⟨_, execLoad_of_legal poly init xorout ri ro _ hlo hhi, .inl rfl⟩
  | append b => exact whenConfigured_alike _ h hs he
  | finish => exact whenConfigured_alike _ h hs he
  | reset => exact whenConfigured_alike _ h hs he

/-- One transaction keeps engines alike and answers both alike. -/
theorem transact_alike {p : Ports} {s t : State} {e : Engine} (h : transact p s = .next t)
    (he : e.Alike s.engine) :
    ∃ f, transact p { s with engine := e } = .next { t with engine := f } ∧ f.Alike t.engine := by
  obtain rfl | ⟨he, hs⟩ := he
  · exact ⟨t.engine, h, .inl rfl⟩
  obtain ⟨hrst, rfl⟩ | ⟨hrst, hvalid, hexec⟩ | ⟨hrst, hvalid, rfl⟩ := transact_cases h
  · exact ⟨Engine.reset, by simp [transact, hrst]; rfl, .inl rfl⟩
  · simpa [transact, hrst, hvalid] using exec_alike hexec hs he
  · exact ⟨e, by simp [transact, hrst, hvalid], .inr ⟨he, hs⟩⟩

theorem performAll_cons_eq_next {p : Ports} {ps : List Ports} {s t : State}
    (h : performAll (p :: ps) s = .next t) :
    ∃ m, transact p s = .next m ∧ performAll ps m = .next t := by
  rw [performAll] at h
  split at h
  · exact ⟨_, ‹_›, h⟩
  · cases h
  · cases h

theorem performAll_cons_of_next {p : Ports} {s m : State} (h : transact p s = .next m)
    (ps : List Ports) : performAll (p :: ps) s = performAll ps m := by
  rw [performAll, h]

theorem performAll_alike {ps : List Ports} {s t : State} {e : Engine}
    (h : performAll ps s = .next t) (he : e.Alike s.engine) :
    ∃ f, performAll ps { s with engine := e } = .next { t with engine := f } ∧ f.Alike t.engine := by
  induction ps generalizing s e with
  | nil =>
    cases h
    exact ⟨e, rfl, he⟩
  | cons p ps ih =>
    obtain ⟨m, hp, hps⟩ := performAll_cons_eq_next h
    obtain ⟨f, hpf, hf⟩ := transact_alike hp he
    rw [performAll_cons_of_next hpf]
    exact ih hps hf

/-- Settles O12: unconfigured engines are alike, and a run keeps them so. -/
theorem unconfiguredRegistersAreNeverRead : Obligations.UnconfiguredRegistersAreNeverRead := by
  intro ps s t e hs he hrun
  obtain ⟨f, hrunf, hf⟩ := performAll_alike hrun (.inr ⟨he, hs⟩)
  exact ⟨_, hrunf, rfl, rfl, hf⟩

end Sys2Proof.Machine
end

section
/-! PROOFS. Sequences of transactions (20_memory.md R29, R33, R34): the queue of samples is the host's alone, so a run
of steps is a sequence of transactions; and a sequence of APPENDs folds its bytes in order (41_append.md R58). -/

namespace Sys2Proof.Machine

/-! ### No transaction reads the queue (R34) -/

/-- What a command answers, with another queue of samples behind it. -/
def withInputs (inputs : List Ports) : Result → Result
  | .next t => .next { t with inputs := inputs }
  | .fault r => .fault r
  | .refused r => .refused r

theorem whenConfigured_withInputs {inputs : List Ports} {act act' : Result} (s : State)
    (h : act' = withInputs inputs act) :
    whenConfigured { s with inputs := inputs } act' = withInputs inputs (whenConfigured s act) :=
  h ▸ (apply_ite (withInputs inputs) (s.engine.configured = true) act (raise .notConfigured s)).symm

theorem execLoad_withInputs (w : Width) (poly init xorout : Word) (ri ro : Bool) (s : State)
    (inputs : List Ports) :
    execLoad w poly init xorout ri ro { s with inputs := inputs } =
      withInputs inputs (execLoad w poly init xorout ri ro s) := by
  unfold execLoad
  split
  · rfl
  · split <;> rfl

theorem exec_withInputs (i : Instr) (s : State) (inputs : List Ports) :
    exec i { s with inputs := inputs } = withInputs inputs (exec i s) := by
  cases i with
  | load w poly init xorout ri ro => exact execLoad_withInputs w poly init xorout ri ro s inputs
  | append b => exact whenConfigured_withInputs s rfl
  | finish => exact whenConfigured_withInputs s rfl
  | reset => exact whenConfigured_withInputs s rfl

theorem transact_withInputs (p : Ports) (s : State) (inputs : List Ports) :
    transact p { s with inputs := inputs } = withInputs inputs (transact p s) := by
  unfold transact
  split
  · rfl
  · split
    · exact exec_withInputs _ s inputs
    · rfl

theorem step_of_inputs_cons {s : State} {p : Ports} {rest : List Ports}
    (h : s.inputs = p :: rest) : step s = withInputs rest (transact p s) := by
  rw [← transact_withInputs, step, h]

/-! ### Steps and transactions, one after another -/

theorem run_succ_of_next {M : Host.Core} {s t : M.State} (h : M.step s = .next t) (k : Nat) :
    M.run (k + 1) s = M.run k t := by
  rw [Host.Core.run, h]

theorem run_succ_of_refused {M : Host.Core} {s : M.State} {r : M.Refusal}
    (h : M.step s = .refused r) (k : Nat) : M.run (k + 1) s = .refused r := by
  rw [Host.Core.run, h]

theorem performAll_cons_of_refused {p : Ports} {s : State} {r : Refusal}
    (h : transact p s = .refused r) (ps : List Ports) : performAll (p :: ps) s = .refused r := by
  rw [performAll, h]

/-- Settles O11, by induction on the samples: the step that takes one off is its transaction, whatever stands behind it
in the queue. -/
theorem queuedSamplesAreActedOnInOrder : Obligations.QueuedSamplesAreActedOnInOrder := by
  intro ps rest s h
  induction ps generalizing s with
  | nil => subst h; rfl
  | cons p ps ih =>
    have hstep := step_of_inputs_cons h
    have hhead := transact_withInputs p s rest
    cases hp : transact p s with
    | next t =>
      rw [hp] at hstep hhead
      have hrun := run_succ_of_next (M := core) hstep ps.length
      have hrest := ih { t with inputs := ps ++ rest } rfl
      exact hrun.trans (hrest.trans (performAll_cons_of_next hhead ps).symm)
    | fault r => cases r
    | refused r =>
      rw [hp] at hstep hhead
      exact (run_succ_of_refused (M := core) hstep ps.length).trans (performAll_cons_of_refused hhead ps).symm

/-! ### Sequences of APPENDs (R29, R58) -/

theorem decodeCommand_encodeCommand (i : Instr) : decodeCommand (encodeCommand i) = i := by
  cases i <;> simp [decodeCommand, encodeCommand, Command.bare]

/-- Presenting a command performs it (30_encoding.md R37). -/
theorem transact_present (i : Instr) (s : State) : transact (present i) s = exec i s :=
  congrArg (exec · s) (decodeCommand_encodeCommand i)

/-- The state an APPEND leaves on a configured engine (R54, R55). -/
def appendedState (s : State) (b : Byte) : State :=
  respondOk { s with engine := appendedEngine s.engine b }

@[simp] theorem appendedState_engine (s : State) (b : Byte) :
    (appendedState s b).engine = appendedEngine s.engine b := rfl

theorem exec_append_of_configured {s : State} (h : s.engine.configured = true) (b : Byte) :
    exec (.append b) s = .next (appendedState s b) :=
  whenConfigured_of_configured h

theorem foldl_appendedState_engine (bs : List Byte) (s : State) :
    (bs.foldl appendedState s).engine = bs.foldl appendedEngine s.engine :=
  (List.foldl_hom State.engine fun _ _ => rfl).symm

theorem foldl_appendedEngine_configured (bs : List Byte) (e : Engine) :
    (bs.foldl appendedEngine e).configured = e.configured := by
  induction bs generalizing e with
  | nil => rfl
  | cons b bs ih => exact ih (appendedEngine e b)

theorem foldl_appendedState_configured {s : State} (h : s.engine.configured = true)
    (bs : List Byte) : (bs.foldl appendedState s).engine.configured = true := by
  rw [foldl_appendedState_engine, foldl_appendedEngine_configured, h]

/-- On a configured engine every APPEND of a sequence completes. -/
theorem performCommands_appendAll {s : State} (h : s.engine.configured = true) (bs : List Byte) :
    performCommands (appendAll bs) s = .next (bs.foldl appendedState s) := by
  induction bs generalizing s with
  | nil => rfl
  | cons b bs ih =>
    have hb := (transact_present (.append b) s).trans (exec_append_of_configured h b)
    exact (performAll_cons_of_next hb _).trans (ih (s := appendedState s b) h)

/-- Settles O26: a sequence of APPENDs is a left fold over its bytes, and a left fold splits at every point. -/
theorem appendsFoldTheMessageInOrder : Obligations.AppendsFoldTheMessageInOrder := by
  intro xs ys s h
  refine ⟨_, xs.foldl appendedState s, performCommands_appendAll h (xs ++ ys),
    foldl_appendedState_engine _ s, performCommands_appendAll h xs, ?_⟩
  rw [performCommands_appendAll (foldl_appendedState_configured h xs), List.foldl_append]

end Sys2Proof.Machine
end

section
/-! PROOFS. APPEND in terms of the size of the register, which is `max width 8` bits (10_state.md R20): one shift step,
the byte folded in, the value written (20_memory.md R31, 41_append.md R55). -/

namespace Sys2Proof.Machine

/-- The feedback of a shift step is a polynomial or nothing, as the bit at the check position tells. -/
theorem shiftStep_eq {e : Engine} {j : Nat} (hcheck : e.W.check.toNat = 2 ^ j) (c : Nat) :
    shiftStep e c = (if e.P.refIn then c >>> 1 else c <<< 1) ^^^
      (if c.testBit j then e.W.polynomial.toNat else 0) := by
  rw [shiftStep, hcheck, Nat.and_two_pow]
  cases c.testBit j <;> simp

theorem lt_of_holds {p : Params} (hlegal : p.Legal) {c : Nat} (h : p.Holds c) :
    c < 2 ^ max p.width.toNat 8 :=
  (le_maskOf_iff (width_le_of_legal hlegal) c).mp h.1

section
variable {e : Engine} (hlegal : e.P.Legal) (hwork : e.W = deriveWork e.P)
include hlegal hwork

theorem polynomial_lt : e.W.polynomial.toNat < 2 ^ max e.P.width.toNat 8 :=
  hwork ▸ lt_of_holds hlegal (holds_adjust_polynomial hlegal)

/-- R19: the check bit is the one next to leave the register. -/
theorem toNat_check :
    e.W.check.toNat = 2 ^ (if e.P.refIn then 0 else max e.P.width.toNat 8 - 1) := by
  rw [hwork, deriveWork_check, toNat_checkOf (width_le_of_legal hlegal)]

/-- R21, R55 step 3: the register keeps the low bits of the shifted value. -/
theorem toNat_appendedCrc_eq_mod (b : Byte) :
    (appendedCrc e b).toNat = appendRaw e b % 2 ^ max e.P.width.toNat 8 := by
  rw [toNat_appendedCrc, hwork, deriveWork_mask, toNat_maskOf (width_le_of_legal hlegal),
    Nat.and_two_pow_sub_one_eq_mod]

/-- R31: the byte is folded in at the end of the register from which the shift steps take bits. -/
theorem foldOf_eq (b : Byte) :
    foldOf e b = if e.P.refIn then b.toNat else b.toNat <<< (max e.P.width.toNat 8 - 8) := by
  rw [foldOf, hwork, deriveWork_mask, toNat_maskOf (width_le_of_legal hlegal)]
  by_cases hw : e.P.width.toNat ≤ 8
  · simp [hw]
  · have hsize : max e.P.width.toNat 8 = 8 + (e.P.width.toNat - 8) := by omega
    have hplain : b.toNat <<< (e.P.width.toNat - 8) < 2 ^ max e.P.width.toNat 8 :=
      hsize ▸ Nat.shiftLeft_lt b.isLt
    have hrefl : b.toNat < 2 ^ max e.P.width.toNat 8 :=
      b.isLt.trans_le (Nat.pow_le_pow_right two_pos (le_max_right _ _))
    rw [if_neg hw, Nat.and_two_pow_sub_one_of_lt_two_pow hplain,
      Nat.and_two_pow_sub_one_of_lt_two_pow hrefl, max_eq_left (by omega)]

theorem foldOf_lt (b : Byte) : foldOf e b < 2 ^ max e.P.width.toNat 8 := by
  have hsize : 8 + (max e.P.width.toNat 8 - 8) = max e.P.width.toNat 8 := by omega
  rw [foldOf_eq hlegal hwork]
  split
  · exact b.isLt.trans_le (Nat.pow_le_pow_right two_pos (le_max_right _ _))
  · exact (Nat.shiftLeft_lt b.isLt).trans_eq (by rw [hsize])

theorem folded_lt (hcrc : e.P.Holds e.crc.toNat) (b : Byte) :
    e.crc.toNat ^^^ foldOf e b < 2 ^ max e.P.width.toNat 8 :=
  Nat.xor_lt_two_pow (lt_of_holds hlegal hcrc) (foldOf_lt hlegal hwork b)

end

end Sys2Proof.Machine
end

section
/-! PROOFS. APPEND as polynomial division over GF(2) (20_memory.md R30). Taken modulo the register's size, a
non-reflected shift step is one step of a long division. -/

namespace Sys2Proof.Machine

/-! ### The product by a quotient -/

/-- The product over GF(2) of `m` by the low `k` bits of `q`. -/
def lowProduct (k q m : Nat) : Nat :=
  (List.range k).foldl (fun acc i => if q.testBit i then acc ^^^ (m <<< i) else acc) 0

theorem quotientTimes_eq_lowProduct (q m : Nat) : quotientTimes q m = lowProduct 8 q m := rfl

theorem lowProduct_succ (k q m : Nat) :
    lowProduct (k + 1) q m = lowProduct k q m ^^^ (if q.testBit k then m <<< k else 0) := by
  rw [lowProduct, List.range_succ, List.foldl_append, ← lowProduct]
  cases hq : q.testBit k <;> simp [hq]

theorem lowProduct_congr {k q r : Nat} (m : Nat) (h : ∀ i < k, q.testBit i = r.testBit i) :
    lowProduct k q m = lowProduct k r m := by
  induction k with
  | zero => rfl
  | succ k ih =>
    rw [lowProduct_succ, lowProduct_succ, ih fun i hi => h i (Nat.lt_succ_of_lt hi),
      h k (Nat.lt_succ_self k)]

/-- A new highest bit of the quotient adds one more multiple of the divisor. -/
theorem lowProduct_two_pow_add {k q : Nat} (hq : q < 2 ^ k) (b : Bool) (m : Nat) :
    lowProduct (k + 1) (2 ^ k * b.toNat + q) m =
      lowProduct k q m ^^^ (if b then m <<< k else 0) := by
  have hlow (i : Nat) (hi : i < k) : (2 ^ k * b.toNat + q).testBit i = q.testBit i := by
    rw [Nat.testBit_two_pow_mul_add _ hq, if_pos hi]
  have htop : (2 ^ k * b.toNat + q).testBit k = b := by
    rw [Nat.testBit_two_pow_mul_add _ hq, if_neg (Nat.lt_irrefl k), Nat.sub_self]
    cases b <;> rfl
  rw [lowProduct_succ, lowProduct_congr m hlow, htop]

/-! ### Long division -/

section
variable {e : Engine} {n : Nat} (hn : 0 < n) (hri : e.P.refIn = false)
  (hcheck : e.W.check.toNat = 2 ^ (n - 1)) (hpoly : e.W.polynomial.toNat < 2 ^ n)
include hn hri hcheck hpoly

/-- Modulo `2^n` a shift step is one step of a long division: the dividend moves up, and if its top bit leaves the `n`
bits, the divisor `2^n + W.polynomial` is taken off and clears that bit. -/
theorem shiftStep_mod_two_pow (c : Nat) :
    shiftStep e c % 2 ^ n =
      (c % 2 ^ n) <<< 1 ^^^ (if c.testBit (n - 1) then 2 ^ n + e.W.polynomial.toNat else 0) := by
  have hdivisor (i : Nat) : (2 ^ n + e.W.polynomial.toNat).testBit i =
      if i < n then e.W.polynomial.toNat.testBit i else Nat.testBit 1 (i - n) := by
    rw [← Nat.testBit_two_pow_mul_add 1 hpoly, Nat.mul_one]
  rw [shiftStep_eq hcheck, hri]
  refine Nat.eq_of_testBit_eq fun i => ?_
  rcases Nat.lt_trichotomy i n with hlt | rfl | hgt
  · have hpred : i - 1 < n := by omega
    cases c.testBit (n - 1) <;> simp [hlt, hpred, hdivisor]
  · have hpred : i - 1 < i := by omega
    have hpos : 1 ≤ i := hn
    cases hbit : c.testBit (i - 1) <;> simp [hpred, hpos, hdivisor, hbit]
  · have hpred : ¬ i - 1 < n := by omega
    have habove : Nat.testBit 1 (i - n) = false :=
      Nat.testBit_lt_two_pow (Nat.one_lt_two_pow (by omega))
    cases c.testBit (n - 1) <;> simp [hgt.not_gt, hpred, habove, hdivisor]

/-- What the register has above its `n` bits has no effect in them. -/
theorem shiftStep_mod_mod (c : Nat) :
    shiftStep e (c % 2 ^ n) % 2 ^ n = shiftStep e c % 2 ^ n := by
  have htop : n - 1 < n := by omega
  rw [shiftStep_mod_two_pow hn hri hcheck hpoly, shiftStep_mod_two_pow hn hri hcheck hpoly,
    Nat.mod_mod, Nat.testBit_mod_two_pow, decide_eq_true htop, Bool.true_and]

/-- `k` shift steps divide by `2^n + W.polynomial` with a quotient of `k` bits: each step gives the next bit, from the
top, and what is left in the `n` bits is the remainder. -/
theorem exists_quotient_iterate_shiftStep (k c : Nat) :
    ∃ q < 2 ^ k, (c % 2 ^ n) <<< k =
      lowProduct k q (2 ^ n + e.W.polynomial.toNat) ^^^ (shiftStep e)^[k] c % 2 ^ n := by
  induction k generalizing c with
  | zero => exact ⟨0, by simp, by simp [lowProduct]⟩
  | succ k ih =>
    obtain ⟨q, hq, hdiv⟩ := ih (shiftStep e c)
    refine ⟨2 ^ k * (c.testBit (n - 1)).toNat + q, ?bound, ?equation⟩
    case bound =>
      have hbit := Nat.mul_le_mul_left (2 ^ k) (Bool.toNat_le (c.testBit (n - 1)))
      rw [Nat.pow_succ]
      omega
    case equation =>
      have hshift : (if c.testBit (n - 1) then 2 ^ n + e.W.polynomial.toNat else 0) <<< k =
          if c.testBit (n - 1) then (2 ^ n + e.W.polynomial.toNat) <<< k else 0 := by
        rw [apply_ite (· <<< k), Nat.zero_shiftLeft]
      rw [shiftStep_mod_two_pow hn hri hcheck hpoly, Nat.shiftLeft_xor_distrib, hshift,
        ← Nat.shiftLeft_add, Nat.add_comm 1 k] at hdiv
      rw [lowProduct_two_pow_add hq, Function.iterate_succ_apply, Nat.xor_right_comm, ← hdiv,
        Nat.xor_xor_cancel_right]

end

/-- `crc * x^8 + b * x^n` is the folded register moved up by eight bits, and the eight shift steps divide it. -/
theorem exists_quotient_appendedCrc {e : Engine} (hlegal : e.P.Legal) (hwork : e.W = deriveWork e.P)
    (hri : e.P.refIn = false) (hcrc : e.P.Holds e.crc.toNat) (b : Byte) :
    ∃ q < 2 ^ 8, (e.crc.toNat <<< 8) ^^^ (b.toNat <<< max e.P.width.toNat 8) =
      quotientTimes q (2 ^ max e.P.width.toNat 8 + e.W.polynomial.toNat) ^^^
        (appendedCrc e b).toNat := by
  have hcheck : e.W.check.toNat = 2 ^ (max e.P.width.toNat 8 - 1) := by
    rw [toNat_check hlegal hwork, hri, if_neg Bool.false_ne_true]
  have hsize : max e.P.width.toNat 8 - 8 + 8 = max e.P.width.toNat 8 := by omega
  have hdividend : (e.crc.toNat ^^^ foldOf e b) <<< 8 =
      e.crc.toNat <<< 8 ^^^ b.toNat <<< max e.P.width.toNat 8 := by
    rw [foldOf_eq hlegal hwork, hri, if_neg Bool.false_ne_true, Nat.shiftLeft_xor_distrib,
      ← Nat.shiftLeft_add, hsize]
  obtain ⟨q, hq, hdiv⟩ := exists_quotient_iterate_shiftStep (by omega) hri hcheck
    (polynomial_lt hlegal hwork) 8 (e.crc.toNat ^^^ foldOf e b)
  refine ⟨q, hq, ?_⟩
  rw [← hdividend, quotientTimes_eq_lowProduct, toNat_appendedCrc_eq_mod hlegal hwork,
    ← Nat.mod_eq_of_lt (folded_lt hlegal hwork hcrc b)]
  exact hdiv

/-- Settles O24: the eight shift steps of an APPEND give the quotient, and the register keeps the remainder. -/
theorem appendIsPolynomialDivision : Obligations.AppendIsPolynomialDivision := by
  intro b s hinv hc hri
  obtain ⟨hengine, -⟩ := hinv
  obtain ⟨hlegal, hwork, hcrc⟩ := hengine hc
  obtain ⟨q, hq, hdiv⟩ := exists_quotient_appendedCrc hlegal hwork hri hcrc b
  exact ⟨_, q, exec_append_of_configured hc b, hq, hdiv,
    lt_of_holds hlegal (holds_appendedCrc hlegal hwork hcrc b)⟩

end Sys2Proof.Machine
end

section
/-! PROOFS. Reflected APPEND as the mirror image of the non-reflected one (20_memory.md R30): bit reversal turns a
shift step to the right into one to the left. -/

namespace Sys2Proof.Machine

/-! ### Bit reversal (R7) -/

theorem reverseBits_xor (a b n : Nat) :
    reverseBits (a ^^^ b) n = reverseBits a n ^^^ reverseBits b n := by
  refine Nat.eq_of_testBit_eq fun i => ?_
  by_cases hi : i < n <;> simp [hi]

theorem reverseBits_mod_two_pow (v n : Nat) : reverseBits (v % 2 ^ n) n = reverseBits v n := by
  refine Nat.eq_of_testBit_eq fun i => ?_
  by_cases hi : i < n
  · have hmirror : n - 1 - i < n := by omega
    simp [hi, hmirror]
  · simp [hi]

theorem reverseBits_zero_left (n : Nat) : reverseBits 0 n = 0 :=
  Nat.eq_of_testBit_eq fun i => by simp

/-- Reversed in more bits than it has, a value comes to stand at their top. -/
theorem reverseBits_eq_shiftLeft {v m n : Nat} (hv : v < 2 ^ m) (hmn : m ≤ n) :
    reverseBits v n = reverseBits v m <<< (n - m) := by
  refine Nat.eq_of_testBit_eq fun i => ?_
  rw [testBit_reverseBits, Nat.testBit_shiftLeft, testBit_reverseBits]
  by_cases hlow : n - m ≤ i
  · have hin : i - (n - m) < m ↔ i < n := by omega
    have hpos : m - 1 - (i - (n - m)) = n - 1 - i := by omega
    simp [hlow, hin, hpos]
  · have hzero : v.testBit (n - 1 - i) = false :=
      Nat.testBit_lt_two_pow (hv.trans_le (Nat.pow_le_pow_right two_pos (by omega)))
    simp [hlow, hzero]

/-- A shift to the right is, mirrored, one to the left. -/
theorem reverseBits_shiftRight_one {v n : Nat} (hv : v < 2 ^ n) :
    reverseBits (v >>> 1) n = reverseBits v n <<< 1 % 2 ^ n := by
  refine Nat.eq_of_testBit_eq fun i => ?_
  rw [testBit_reverseBits, Nat.testBit_shiftRight, Nat.testBit_mod_two_pow, Nat.testBit_shiftLeft,
    testBit_reverseBits]
  by_cases hi : i < n
  · rcases Nat.eq_zero_or_pos i with rfl | hpos
    · have hzero : v.testBit (1 + (n - 1)) = false :=
        Nat.testBit_lt_two_pow (hv.trans_le (Nat.pow_le_pow_right two_pos (by omega)))
      simp [hzero]
    · have hin : i - 1 < n := by omega
      have hbit : 1 + (n - 1 - i) = n - 1 - (i - 1) := by omega
      simp [hi, hin, hbit, Nat.succ_le_of_lt hpos]
  · simp [hi]

/-! ### The mirror image (R30) -/

/-- Engine `f` shifts to the left what `e` shifts to the right, in a register of `n` bits. -/
structure Engine.Mirrors (n : Nat) (e f : Engine) : Prop where
  reflected : e.P.refIn = true
  plain : f.P.refIn = false
  check_reflected : e.W.check.toNat = 2 ^ 0
  check_plain : f.W.check.toNat = 2 ^ (n - 1)
  polynomial_lt : e.W.polynomial.toNat < 2 ^ n
  polynomial_reversed : f.W.polynomial.toNat = reverseBits e.W.polynomial.toNat n

section
variable {n : Nat} {e f : Engine} (hn : 0 < n) (hmirrors : e.Mirrors n f)
include hn hmirrors

theorem reverseBits_shiftStep {c : Nat} (hc : c < 2 ^ n) :
    reverseBits (shiftStep e c) n = shiftStep f (reverseBits c n) % 2 ^ n := by
  obtain ⟨he, hf, hce, hcf, -, hpoly⟩ := hmirrors
  have hbit : (reverseBits c n).testBit (n - 1) = c.testBit 0 := by
    have htop : n - 1 < n := by omega
    simp [htop]
  have hrev := reverseBits_lt e.W.polynomial.toNat n
  rw [shiftStep_eq hce, shiftStep_eq hcf, he, hf, hbit, hpoly, reverseBits_xor, Nat.xor_mod_two_pow,
    if_pos rfl, reverseBits_shiftRight_one hc, if_neg Bool.false_ne_true]
  cases c.testBit 0 with
  | true => simp [Nat.mod_eq_of_lt hrev]
  | false => simp [reverseBits_zero_left]

theorem reverseBits_iterate_shiftStep {c : Nat} (hc : c < 2 ^ n) (k : Nat) :
    reverseBits ((shiftStep e)^[k] c) n = (shiftStep f)^[k] (reverseBits c n) % 2 ^ n := by
  induction k with
  | zero => exact (Nat.mod_eq_of_lt (reverseBits_lt c n)).symm
  | succ k ih =>
    have hbound : (shiftStep e)^[k] c < 2 ^ n := by
      have hmax := iterate_shiftStep_lt (n := n) hmirrors.reflected hmirrors.polynomial_lt
        (by rwa [max_self]) k
      rwa [max_eq_left (Nat.sub_le n k)] at hmax
    have hpoly : f.W.polynomial.toNat < 2 ^ n :=
      hmirrors.polynomial_reversed ▸ reverseBits_lt _ n
    rw [Function.iterate_succ_apply', Function.iterate_succ_apply',
      reverseBits_shiftStep hn hmirrors hbound, ih,
      shiftStep_mod_mod hn hmirrors.plain hmirrors.check_plain hpoly]

end

/-- R17: without reflection the adjusted value stands at the top of the register. -/
theorem toNat_adjust_of_plain {p : Params} {v : Word} (hhi : p.width.toNat ≤ 32)
    (hri : p.refIn = false) (hv : v.toNat < 2 ^ p.width.toNat) :
    (adjust p v).toNat = v.toNat <<< (max p.width.toNat 8 - p.width.toNat) := by
  rw [toNat_adjust hhi hv, hri, if_neg Bool.false_ne_true]
  split
  · rw [max_eq_right (by omega), Nat.shiftLeft_eq]
  · rw [max_eq_left (by omega), Nat.sub_self, Nat.shiftLeft_zero]

/-- The non-reflected engine with the same parameters and the reversed register. -/
def Engine.mirrorImage (e : Engine) : Engine where
  configured := e.configured
  P := { e.P with refIn := false }
  W := deriveWork { e.P with refIn := false }
  crc := BitVec.ofNat 32 (reverseBits e.crc.toNat (max e.P.width.toNat 8))

section
variable {e : Engine} (hlegal : e.P.Legal) (hwork : e.W = deriveWork e.P) (hri : e.P.refIn = true)
include hlegal hwork hri

theorem mirrors_mirrorImage : e.Mirrors (max e.P.width.toNat 8) e.mirrorImage := by
  have hhi := width_le_of_legal hlegal
  have hsize := polynomial_lt hlegal hwork
  have hcheck := toNat_check hlegal hwork
  obtain ⟨-, hlt, -, -⟩ := hlegal
  have hpoly : e.W.polynomial.toNat = reverseBits e.P.polynomial.toNat e.P.width.toNat := by
    rw [hwork, deriveWork_polynomial, toNat_adjust hhi hlt, if_pos hri]
  have himage : e.mirrorImage.W.polynomial.toNat =
      e.P.polynomial.toNat <<< (max e.P.width.toNat 8 - e.P.width.toNat) :=
    toNat_adjust_of_plain (p := e.mirrorImage.P) hhi rfl hlt
  exact {
    reflected := hri
    plain := rfl
    check_reflected := by rw [hcheck, if_pos hri]
    check_plain := toNat_checkOf (p := e.mirrorImage.P) hhi
    polynomial_lt := hsize
    polynomial_reversed := by
      rw [himage, hpoly, reverseBits_eq_shiftLeft (reverseBits_lt _ _) (le_max_left _ _),
        reverseBits_reverseBits, norm_of_lt hlt] }

/-- The folded register and byte of the mirror image are those of the engine, reversed. -/
theorem reverseBits_folded (b : Byte) :
    reverseBits (e.crc.toNat ^^^ foldOf e b) (max e.P.width.toNat 8) =
      e.mirrorImage.crc.toNat ^^^ foldOf e.mirrorImage (BitVec.ofNat 8 (reverseBits b.toNat 8)) := by
  have hrev := reverseBits_lt e.crc.toNat (max e.P.width.toNat 8)
  have hsize : max e.P.width.toNat 8 ≤ 32 := by
    have hhi := width_le_of_legal hlegal
    omega
  have himage : e.mirrorImage.crc.toNat = reverseBits e.crc.toNat (max e.P.width.toNat 8) :=
    toNat_ofNat_of_lt (hrev.trans_le (two_pow_le_word hsize))
  have hbyte : (BitVec.ofNat 8 (reverseBits b.toNat 8)).toNat = reverseBits b.toNat 8 := by
    rw [BitVec.toNat_ofNat, Nat.mod_eq_of_lt (reverseBits_lt _ _)]
  have hfold : foldOf e.mirrorImage (BitVec.ofNat 8 (reverseBits b.toNat 8)) =
      reverseBits b.toNat 8 <<< (max e.P.width.toNat 8 - 8) :=
    (foldOf_eq (e := e.mirrorImage) hlegal rfl _).trans (congrArg (· <<< _) hbyte)
  rw [reverseBits_xor, himage, hfold, foldOf_eq hlegal hwork, if_pos hri,
    reverseBits_eq_shiftLeft b.isLt (le_max_right _ _)]

theorem reverseBits_appendedCrc (hcrc : e.P.Holds e.crc.toNat) (b : Byte) :
    reverseBits (appendedCrc e b).toNat (max e.P.width.toNat 8) =
      (appendedCrc e.mirrorImage (BitVec.ofNat 8 (reverseBits b.toNat 8))).toNat := by
  have hfolded := folded_lt hlegal hwork hcrc b
  calc reverseBits (appendedCrc e b).toNat (max e.P.width.toNat 8)
      = reverseBits (appendRaw e b) (max e.P.width.toNat 8) := by
        rw [toNat_appendedCrc_eq_mod hlegal hwork, reverseBits_mod_two_pow]
    _ = (shiftStep e.mirrorImage)^[8]
          (reverseBits (e.crc.toNat ^^^ foldOf e b) (max e.P.width.toNat 8)) %
            2 ^ max e.P.width.toNat 8 :=
        reverseBits_iterate_shiftStep (by omega) (mirrors_mirrorImage hlegal hwork hri) hfolded 8
    _ = appendRaw e.mirrorImage (BitVec.ofNat 8 (reverseBits b.toNat 8)) %
            2 ^ max e.P.width.toNat 8 := by
        rw [reverseBits_folded hlegal hwork hri]
        rfl
    _ = (appendedCrc e.mirrorImage (BitVec.ofNat 8 (reverseBits b.toNat 8))).toNat :=
        (toNat_appendedCrc_eq_mod (e := e.mirrorImage) hlegal rfl _).symm

end

/-- Settles O25: reversal turns every shift step around, and the folded value with them. -/
theorem reflectedAppendIsTheMirrorImage : Obligations.ReflectedAppendIsTheMirrorImage :=
  fun p c b hlegal hri hcrc =>
    reverseBits_appendedCrc (e := ⟨true, p, deriveWork p, c⟩) hlegal rfl hri hcrc b

end Sys2Proof.Machine
end

section
/-! PROOFS. The command word (30_encoding.md R39, R41, R42, R46, R48): its eight fields stand side by side, so word and
ports determine each other; the decoder reads only the fields that the code uses; and the step runs what it reads. -/

namespace Sys2Proof

/-! ### The word and its fields (R39) -/

theorem toNat_setWidth_shiftLeft {n k : Nat} (v : BitVec n) (h : n + k ≤ 114) :
    (v.setWidth 114 <<< k).toNat = v.toNat <<< k := by
  have hshifted : v.toNat <<< k < 2 ^ 114 :=
    (Nat.shiftLeft_lt v.isLt).trans_le (Nat.pow_le_pow_right two_pos h)
  rw [BitVec.toNat_shiftLeft, BitVec.toNat_setWidth_of_le (by omega), Nat.mod_eq_of_lt hshifted]

/-- R39's formula: every field fits at its place, so no bit of it is shifted out of the word. -/
theorem toNat_word (c : Command) : c.word.toNat =
    c.op.toNat ||| c.data.toNat <<< 2 ||| c.width.toNat <<< 10 ||| c.refin.toNat <<< 16 |||
      c.refout.toNat <<< 17 ||| c.poly.toNat <<< 18 ||| c.init.toNat <<< 50 |||
      c.xorout.toNat <<< 82 := by
  have hop : (c.op.setWidth 114).toNat = c.op.toNat := BitVec.toNat_setWidth_of_le (by decide)
  simp (disch := decide) only [Command.word, BitVec.toNat_or, hop, toNat_setWidth_shiftLeft]

/-- The places of R39 leave no gap and do not overlap: the word is its fields side by side, `xorout` at the top. -/
theorem word_eq_append (c : Command) : c.word =
    c.xorout ++ c.init ++ c.poly ++ c.refout ++ c.refin ++ c.width ++ c.data ++ c.op := by
  refine BitVec.eq_of_toNat_eq ((toNat_word c).trans (Eq.symm ?_))
  iterate 7 rw [BitVec.toNat_append]
  simp only [Nat.shiftLeft_or_distrib, ← Nat.shiftLeft_add, Nat.reduceAdd, Nat.or_comm,
    Nat.or_assoc]

@[simp] theorem ofWord_word (c : Command) : Command.ofWord c.word = c := by
  rw [Command.ofWord, word_eq_append]
  simp (disch := decide) only [BitVec.extractLsb'_append_eq_right,
    BitVec.extractLsb'_append_eq_of_le, Nat.reduceSub, BitVec.extractLsb'_eq_self]

@[simp] theorem word_ofWord (w : Cmdw) : (Command.ofWord w).word = w := by
  have join {start next len len' : Nat} (h : next = start + len) :
      w.extractLsb' next len' ++ w.extractLsb' start len = w.extractLsb' start (len' + len) :=
    BitVec.extractLsb'_append_extractLsb'_eq_extractLsb' h
  rw [word_eq_append]
  dsimp only [Command.ofWord]
  iterate 7 rw [join (by decide)]
  exact BitVec.extractLsb'_eq_self

/-! ### The decoder, code by code (R41, R42) -/

theorem decodeCommand_of_load {c : Command} (h : c.op = 0b00#2) : decodeCommand c =
    .load c.width c.poly c.init c.xorout (flagOfBit c.refin) (flagOfBit c.refout) := if_pos h

theorem decodeCommand_of_append {c : Command} (h : c.op = 0b01#2) :
    decodeCommand c = .append c.data := by
  simp [decodeCommand, h]

theorem decodeCommand_of_finish {c : Command} (h : c.op = 0b10#2) :
    decodeCommand c = .finish := by
  simp [decodeCommand, h]

theorem decodeCommand_of_reset {c : Command} (h : c.op = 0b11#2) :
    decodeCommand c = .reset := by
  simp [decodeCommand, h]

/-- All four codes are used (R41). -/
theorem op_cases (op : BitVec 2) : op = 0b00#2 ∨ op = 0b01#2 ∨ op = 0b10#2 ∨ op = 0b11#2 := by
  revert op
  decide

/-- R42: two bundles of ports with the same code and the same used fields decode alike. -/
theorem decodeCommand_congr {c d : Command} (hop : c.op = d.op)
    (hload : c.op = 0b00 → c.width = d.width ∧ c.refin = d.refin ∧ c.refout = d.refout ∧
      c.poly = d.poly ∧ c.init = d.init ∧ c.xorout = d.xorout)
    (happend : c.op = 0b01 → c.data = d.data) : decodeCommand c = decodeCommand d := by
  obtain hc | hc | hc | hc := op_cases c.op
  · obtain ⟨hwidth, hrefin, hrefout, hpoly, hinit, hxorout⟩ := hload hc
    rw [decodeCommand_of_load hc, decodeCommand_of_load (hop ▸ hc), hwidth, hrefin, hrefout, hpoly,
      hinit, hxorout]
  · rw [decodeCommand_of_append hc, decodeCommand_of_append (hop ▸ hc), happend hc]
  · rw [decodeCommand_of_finish hc, decodeCommand_of_finish (hop ▸ hc)]
  · rw [decodeCommand_of_reset hc, decodeCommand_of_reset (hop ▸ hc)]

/-- R48: a decoded command is encoded in the fields its code uses, with 0 in the others. -/
theorem encodeCommand_decodeCommand (c : Command) : encodeCommand (decodeCommand c) =
    if c.op = 0b00 then { c with data := 0 }
    else if c.op = 0b01 then { Command.bare 0b01 with data := c.data }
    else Command.bare c.op := by
  obtain hc | hc | hc | hc := op_cases c.op
  · rw [decodeCommand_of_load hc, encodeCommand, bitOfFlag_flagOfBit, bitOfFlag_flagOfBit, hc]
    rfl
  · rw [decodeCommand_of_append hc, hc]
    rfl
  · rw [decodeCommand_of_finish hc, hc]
    rfl
  · rw [decodeCommand_of_reset hc, hc]
    rfl

theorem decode_encode (i : Instr) : decode (encode i) = i := by
  rw [decode, encode, ofWord_word, Machine.decodeCommand_encodeCommand]

theorem decodeNat_of_lt {w : Nat} (h : w < 2 ^ 114) :
    decodeNat w = .ok (decode (BitVec.ofNat 114 w)) := if_pos h

theorem decodeNat_of_le {w : Nat} (h : 2 ^ 114 ≤ w) : decodeNat w = .error .bitsAboveWord :=
  if_neg h.not_gt

/-- A bit string that the decoder accepts is the command word of its bits (log 7). -/
theorem decodeTableWord_eq_some {nbits w : Nat} {i : Instr} (h : decodeTableWord nbits w = some i) :
    decode (BitVec.ofNat 114 (w % 2 ^ nbits)) = i := by
  rw [decodeTableWord] at h
  rcases Nat.lt_or_ge (w % 2 ^ nbits) (2 ^ 114) with hlt | hge
  · rw [decodeNat_of_lt hlt] at h
    exact Option.some.inj h
  · rw [decodeNat_of_le hge] at h
    cases h

end Sys2Proof

namespace Sys2Proof.Machine

/-! ### The sample that a step takes (R37, R38) -/

theorem transact_of_command {p : Ports} (hrst : p.rst = false) (hvalid : p.cmdValid = true)
    (s : State) : transact p s = exec (decodeCommand p.cmd) s := by
  simp [transact, hrst, hvalid]

theorem transact_of_idle {p : Ports} (hrst : p.rst = false) (hvalid : p.cmdValid = false)
    (s : State) : transact p s = .next s := by
  simp [transact, hrst, hvalid]

theorem step_of_inputs_nil {s : State} (h : s.inputs = []) : step s = .next s := by
  rw [step, h]

theorem step_eq_transact {s : State} {p : Ports} {rest : List Ports} (h : s.inputs = p :: rest) :
    step s = transact p { s with inputs := rest } := by
  rw [step, h]

/-! ### The obligations -/

/-- Settles O2: the word gives back the ports that the assembler drives, and these decode to the command. -/
theorem decodeInvertsEncode : Obligations.DecodeInvertsEncode := decode_encode

/-- Settles O3: as numbers the fields are shifted to their places, and side by side they fill the word. -/
theorem commandWordSerialisesThePorts : Obligations.CommandWordSerialisesThePorts :=
  ⟨toNat_word, ofWord_word, word_ofWord⟩

/-- Settles O4: what is performed is the decoded command, which the ignored fields do not touch. -/
theorem unusedFieldsAreIgnored : Obligations.UnusedFieldsAreIgnored := by
  refine ⟨fun c d s hop hload happend => ?_, fun _ _ _ _ _ _ => rfl, fun _ => rfl, rfl, rfl⟩
  exact congrArg (exec · s) (decodeCommand_congr hop hload happend)

/-- Settles O5: the canonical word has the ports of the decoded command, and it decodes to that command again. -/
theorem encodeAfterDecodeIsCanonical : Obligations.EncodeAfterDecodeIsCanonical := fun w =>
  ⟨(ofWord_word _).trans (encodeCommand_decodeCommand (Command.ofWord w)),
    congrArg printInstr (decode_encode (decode w))⟩

/-- Settles O1: each word is decoded by its two lowest bits, and its fields are read off. -/
theorem decodeReadsTheWordsOfTheSpec : Obligations.DecodeReadsTheWordsOfTheSpec := by
  unfold Obligations.DecodeReadsTheWordsOfTheSpec
  decide

/-- Settles O6, by the two sides of the bound. -/
theorem longerBitStringsAreRejected : Obligations.LongerBitStringsAreRejected :=
  fun _ => ⟨decodeNat_of_lt, decodeNat_of_le⟩

/-- Settles O8: a step is the transaction of the oldest sample, and a placed word is that sample. -/
theorem stepRunsTheDecodedCommand : Obligations.StepRunsTheDecodedCommand := by
  refine ⟨fun s p rest hinputs hrst hvalid => ?sample, fun s nbits w i hdecode => ?placed⟩
  case sample => rw [step_eq_transact hinputs, transact_of_command hrst hvalid]
  case placed =>
    calc step (s.withFetchWord nbits w)
        = exec (decode (BitVec.ofNat 114 (w % 2 ^ nbits))) s := rfl
      _ = exec i s := by rw [decodeTableWord_eq_some hdecode]

/-- Settles O9: without a sample there is no transaction, and an idle sample's transaction is the identity. -/
theorem idleStepsChangeNothing : Obligations.IdleStepsChangeNothing := by
  refine ⟨fun s => step_of_inputs_nil, fun s p rest hinputs hrst hvalid => ?_⟩
  rw [step_eq_transact hinputs, transact_of_idle hrst hvalid]

end Sys2Proof.Machine
end

section
/-! PROOFS. The printed form of a command reads back (30_encoding.md R46, R48, log 10): the numbers first, then the
operands between commas, then the line. -/

namespace Sys2Proof.Machine

/-! ### Numbers -/

theorem digitValue_hexDigit {d : Nat} (h : d < 16) : digitValue (hexDigit true d) = some d := by
  revert d
  decide

theorem isAlphanum_hexDigit {d : Nat} (h : d < 16) : (hexDigit true d).isAlphanum = true := by
  revert d
  decide

theorem readDigits_hexDigit_cons {d : Nat} (h : d < 16) (acc : Nat) (cs : List Char) :
    readDigits 16 acc (hexDigit true d :: cs) = readDigits 16 (acc * 16 + d) cs := by
  rw [readDigits, digitValue_hexDigit h]
  exact if_pos h

/-- R65: the first of `n + 1` digits is that of the highest place. -/
theorem resultDigits_succ (upper : Bool) (v n : Nat) :
    resultDigits upper v (n + 1) = hexDigit upper (v / 16 ^ n % 16) :: resultDigits upper v n := by
  have hfirst : v >>> (4 * n) = v / 16 ^ n := by
    rw [Nat.shiftRight_eq_div_pow, Nat.pow_mul]
  rw [resultDigits, List.range_succ_eq_map, List.map_cons, List.map_map, Nat.add_sub_cancel,
    Nat.sub_zero, hfirst, resultDigits]
  refine congrArg _ (List.map_congr_left fun j _ => ?_)
  rw [Function.comp_apply, Nat.sub_succ', Nat.sub_right_comm]

/-- `n` digits spell the value modulo `16^n`. -/
theorem readDigits_resultDigits (acc v n : Nat) :
    readDigits 16 acc (resultDigits true v n) = some (acc * 16 ^ n + v % 16 ^ n) := by
  induction n generalizing acc with
  | zero => simp [resultDigits, readDigits, Nat.mod_one]
  | succ n ih =>
    rw [resultDigits_succ, readDigits_hexDigit_cons (Nat.mod_lt _ (by decide)), ih, Nat.mod_pow_succ]
    congr 1
    ring

/-- Leading zeros add nothing to a number. -/
theorem readDigits_dropWhile_zero (cs : List Char) :
    readDigits 16 0 (cs.dropWhile (· == '0')) = readDigits 16 0 cs := by
  induction cs with
  | nil => rfl
  | cons c cs ih =>
    by_cases hc : c = '0'
    · subst hc
      exact ih
    · simp [hc]

theorem readNumber_hex {cs : List Char} (h : cs ≠ []) :
    readNumber ('0' :: 'x' :: cs) = readDigits 16 0 cs := by
  cases cs with
  | nil => exact absurd rfl h
  | cons c cs => rfl

theorem readNumber_hexText (v : Word) : readNumber (hexText v) = some v.toNat := by
  have hdigits : readDigits 16 0 ((resultDigits true v.toNat 8).dropWhile (· == '0')) =
      some v.toNat := by
    rw [readDigits_dropWhile_zero, readDigits_resultDigits, Nat.zero_mul, Nat.zero_add]
    exact congrArg some (Nat.mod_eq_of_lt v.isLt)
  rw [hexText]
  split
  next hzero => rwa [hzero] at hdigits
  next hsome => rwa [readNumber_hex hsome]

theorem readNumber_decimalText {v : Nat} (h : v < 100) : readNumber (decimalText v) = some v := by
  revert v
  decide

theorem fitBits_toNat {n : Nat} (v : BitVec n) : fitBits n v.toNat = some v := by
  rw [fitBits, if_pos v.isLt, BitVec.ofNat_toNat, BitVec.setWidth_eq]

theorem readField_of_readNumber {n : Nat} {operand : List Char} {v : BitVec n}
    (h : readNumber operand = some v.toNat) : readField n operand = some v := by
  rw [readField, h, Option.bind_some, fitBits_toNat]

theorem readField_hexText (v : Word) : readField 32 (hexText v) = some v :=
  readField_of_readNumber (readNumber_hexText v)

theorem readFlag_flagText (f : Bool) : readFlag (flagText f) = some f := by
  cases f <;> rfl

/-! ### Operands -/

/-- What stands between two commas of a printed line: letters and digits, at least one. -/
abbrev IsOperand (cs : List Char) : Prop := cs ≠ [] ∧ ∀ c ∈ cs, c.isAlphanum = true

theorem isOperand_hexText (v : Word) : IsOperand (hexText v) := by
  have hdigits : ∀ c ∈ (resultDigits true v.toNat 8).dropWhile (· == '0'),
      c.isAlphanum = true := by
    intro c hc
    obtain ⟨j, -, rfl⟩ := List.mem_map.mp ((List.dropWhile_sublist _).subset hc)
    exact isAlphanum_hexDigit (Nat.mod_lt _ (by decide))
  rw [hexText]
  split
  next => simp [IsOperand]
  next => exact ⟨by simp, List.forall_mem_cons.mpr ⟨rfl, List.forall_mem_cons.mpr ⟨rfl, hdigits⟩⟩⟩

theorem isOperand_decimalText {v : Nat} (h : v < 100) : IsOperand (decimalText v) := by
  have hdigit (d : Nat) (hd : d < 10) : (hexDigit true d).isAlphanum = true :=
    isAlphanum_hexDigit (by omega)
  rw [decimalText]
  split
  next hlow => simp [IsOperand, hdigit v hlow]
  next => simp [IsOperand, hdigit (v / 10) (by omega), hdigit (v % 10) (by omega)]

theorem isOperand_flagText (f : Bool) : IsOperand (flagText f) := by
  cases f <;> simp [IsOperand, flagText]

theorem ne_of_isAlphanum {c d : Char} (h : c.isAlphanum = true) (hd : d.isAlphanum = false) :
    c ≠ d := by
  rintro rfl
  exact absurd h (by simp [hd])

theorem isBlank_of_isAlphanum {c : Char} (h : c.isAlphanum = true) : isBlank c = false := by
  have hspace : c ≠ ' ' := ne_of_isAlphanum h (by decide)
  have htab : c ≠ '\t' := ne_of_isAlphanum h (by decide)
  simp [isBlank, hspace, htab]

theorem skipBlanks_of_isAlphanum {cs : List Char} (h : ∀ c ∈ cs, c.isAlphanum = true) :
    skipBlanks cs = cs := by
  cases cs with
  | nil => rfl
  | cons c cs =>
    have hc := isBlank_of_isAlphanum (h c List.mem_cons_self)
    simp [skipBlanks, hc]

/-- The blank before an operand is no part of it. -/
theorem trimBlanks_blank_cons {cs : List Char} (h : ∀ c ∈ cs, c.isAlphanum = true) :
    trimBlanks (' ' :: cs) = cs := by
  have hskip : skipBlanks (' ' :: cs) = cs := skipBlanks_of_isAlphanum h
  have hback : skipBlanks cs.reverse = cs.reverse :=
    skipBlanks_of_isAlphanum fun c hc => h c (List.mem_reverse.mp hc)
  rw [trimBlanks, hskip, hback, List.reverse_reverse]

theorem isBlank_of_trimBlanks_eq_nil {cs : List Char} (h : trimBlanks cs = []) {c : Char}
    (hc : c ∈ cs) : isBlank c = true := by
  rw [← List.takeWhile_append_dropWhile (p := isBlank) (l := cs), List.mem_append] at hc
  obtain hc | hc := hc
  · exact List.mem_takeWhile_imp hc
  · exact List.dropWhile_eq_nil_iff.mp (List.reverse_eq_nil_iff.mp h) c (List.mem_reverse.mpr hc)

theorem trimBlanks_ne_nil {cs : List Char} {c : Char} (hc : c ∈ cs) (h : c.isAlphanum = true) :
    trimBlanks cs ≠ [] := by
  intro hnil
  exact absurd (isBlank_of_trimBlanks_eq_nil hnil hc) (by simp [isBlank_of_isAlphanum h])

theorem splitCommas_ne_nil (cs : List Char) : splitCommas cs ≠ [] := by
  cases cs with
  | nil => simp [splitCommas]
  | cons c cs =>
    rw [splitCommas]
    split
    · simp
    · split <;> simp

theorem splitCommas_comma (cs : List Char) : splitCommas (',' :: cs) = [] :: splitCommas cs := by
  rw [splitCommas]
  split
  next hnil => exact absurd hnil (splitCommas_ne_nil cs)
  next hcons => exact hcons.symm ▸ rfl

theorem splitCommas_cons {c : Char} (hc : c ≠ ',') {cs piece : List Char}
    {pieces : List (List Char)} (h : splitCommas cs = piece :: pieces) :
    splitCommas (c :: cs) = (c :: piece) :: pieces := by
  rw [splitCommas, h]
  exact if_neg (by simpa using hc)

theorem ne_comma_of_isAlphanum {cs : List Char} (h : ∀ c ∈ cs, c.isAlphanum = true) :
    ∀ c ∈ ' ' :: cs, c ≠ ',' :=
  List.forall_mem_cons.mpr ⟨by decide, fun c hc => ne_of_isAlphanum (h c hc) (by decide)⟩

/-- A text without a comma stands before the first piece of what follows it. -/
theorem splitCommas_append {cs rest piece : List Char} {pieces : List (List Char)}
    (h : ∀ c ∈ cs, c ≠ ',') (hrest : splitCommas rest = piece :: pieces) :
    splitCommas (cs ++ rest) = (cs ++ piece) :: pieces := by
  induction cs with
  | nil => exact hrest
  | cons c cs ih =>
    obtain ⟨hc, hcs⟩ := List.forall_mem_cons.mp h
    exact splitCommas_cons hc (ih hcs)

/-- The operands after the first, each behind a comma and a blank. -/
def furtherOperands (os : List (List Char)) : List Char := os.flatMap fun o => ',' :: ' ' :: o

theorem furtherOperands_cons (o : List Char) (os : List (List Char)) :
    furtherOperands (o :: os) = ',' :: ' ' :: (o ++ furtherOperands os) := rfl

theorem mem_furtherOperands {os : List (List Char)} {c : Char} (h : c ∈ furtherOperands os) :
    c = ',' ∨ c = ' ' ∨ ∃ o ∈ os, c ∈ o := by
  obtain ⟨o, ho, hc⟩ := List.mem_flatMap.mp h
  obtain rfl | hc := List.mem_cons.mp hc
  · exact .inl rfl
  · exact .inr ((List.mem_cons.mp hc).imp_right fun hc => ⟨o, ho, hc⟩)

/-- What the disassembler prints for operands is the first of them and the further ones. -/
theorem intercalate_cons (o : List Char) (os : List (List Char)) :
    List.intercalate [',', ' '] (o :: os) = o ++ furtherOperands os := by
  induction os generalizing o with
  | nil => simp [furtherOperands]
  | cons o' os ih => simp [ih, furtherOperands_cons]

theorem map_trimBlanks_splitCommas {o : List Char} {os : List (List Char)}
    (h : ∀ o' ∈ o :: os, IsOperand o') :
    (splitCommas (' ' :: (o ++ furtherOperands os))).map trimBlanks = o :: os := by
  induction os generalizing o with
  | nil =>
    obtain ⟨⟨-, ho⟩, -⟩ := List.forall_mem_cons.mp h
    have hsplit : splitCommas (' ' :: (o ++ [])) = [' ' :: (o ++ [])] :=
      splitCommas_append (cs := ' ' :: o) (ne_comma_of_isAlphanum ho) rfl
    rw [furtherOperands, List.flatMap_nil, hsplit, List.append_nil, List.map_singleton,
      trimBlanks_blank_cons ho]
  | cons o' os ih =>
    obtain ⟨⟨-, ho⟩, hos⟩ := List.forall_mem_cons.mp h
    have hsplit := splitCommas_append (cs := ' ' :: o) (ne_comma_of_isAlphanum ho)
      (splitCommas_comma (' ' :: (o' ++ furtherOperands os)))
    rw [List.append_nil] at hsplit
    rw [furtherOperands_cons, ← List.cons_append, hsplit, List.map_cons, trimBlanks_blank_cons ho,
      ih hos]

/-- R46: operands separated by commas are read one by one. -/
theorem readOperands_intercalate {operands : List (List Char)} (hne : operands ≠ [])
    (h : ∀ o ∈ operands, IsOperand o) :
    readOperands (' ' :: List.intercalate [',', ' '] operands) = operands := by
  obtain ⟨o, os, rfl⟩ := List.exists_cons_of_ne_nil hne
  obtain ⟨⟨hsome, ho⟩, -⟩ := List.forall_mem_cons.mp h
  obtain ⟨c, hc⟩ := List.exists_mem_of_ne_nil o hsome
  rw [intercalate_cons, readOperands, if_neg (trimBlanks_ne_nil (c := c) (by simp [hc]) (ho c hc)),
    map_trimBlanks_splitCommas h]

theorem ne_semicolon_of_mem_intercalate {operands : List (List Char)} (hne : operands ≠ [])
    (h : ∀ o ∈ operands, IsOperand o) :
    ∀ c ∈ List.intercalate [',', ' '] operands, c ≠ ';' := by
  have hoperand (o : List Char) (ho : o ∈ operands) (c : Char) (hc : c ∈ o) : c ≠ ';' := by
    obtain ⟨-, hchars⟩ := h o ho
    exact ne_of_isAlphanum (hchars c hc) (by decide)
  obtain ⟨o, os, rfl⟩ := List.exists_cons_of_ne_nil hne
  intro c hc
  rw [intercalate_cons, List.mem_append] at hc
  obtain hc | hc := hc
  · exact hoperand o List.mem_cons_self c hc
  · obtain rfl | rfl | ⟨o', ho', hc⟩ := mem_furtherOperands hc
    · decide
    · decide
    · exact hoperand o' (List.mem_cons_of_mem o ho') c hc

/-! ### Lines -/

theorem dropComment_of_ne {cs : List Char} (h : ∀ c ∈ cs, c ≠ ';') : dropComment cs = cs :=
  List.takeWhile_eq_self_iff.mpr (by simpa using h)

theorem isAlphanum_of_isUpper {c : Char} (h : c.isUpper = true) : c.isAlphanum = true := by
  simp [Char.isAlphanum, Char.isAlpha, h]

/-- A mnemonic whose operands stand between commas. -/
abbrev IsMnemonic (m : List Char) : Prop :=
  m ≠ [] ∧ m.all Char.isUpper = true ∧ m ≠ "APPENDS".toList

/-- A line without a comment is a mnemonic and, after a blank, its operands. -/
theorem readLine_mnemonic {m cs : List Char} (hm : IsMnemonic m) (hcs : ∀ c ∈ cs, c ≠ ';') :
    readLine (m ++ ' ' :: cs) = readCommand m (readOperands (' ' :: cs)) := by
  obtain ⟨hne, hupper, happends⟩ := hm
  rw [List.all_eq_true] at hupper
  obtain ⟨c, m', rfl⟩ := List.exists_cons_of_ne_nil hne
  have hc := isAlphanum_of_isUpper (hupper c List.mem_cons_self)
  have hrest : ∀ d ∈ ' ' :: cs, d ≠ ';' := List.forall_mem_cons.mpr ⟨by decide, hcs⟩
  have hline : ∀ d ∈ c :: m' ++ ' ' :: cs, d ≠ ';' := List.forall_mem_append.mpr
    ⟨fun d hd => ne_of_isAlphanum (isAlphanum_of_isUpper (hupper d hd)) (by decide), hrest⟩
  have hbody : skipBlanks (c :: m' ++ ' ' :: cs) = c :: m' ++ ' ' :: cs := by
    simp [skipBlanks, isBlank_of_isAlphanum hc]
  have hmnemonic : (c :: m' ++ ' ' :: cs).takeWhile Char.isUpper = c :: m' := by
    rw [List.takeWhile_append_of_pos hupper]
    exact List.append_nil _
  have hafter : (c :: m' ++ ' ' :: cs).dropWhile Char.isUpper = ' ' :: cs :=
    List.dropWhile_append_of_pos hupper
  have hcommand : trimBlanks (c :: m' ++ ' ' :: cs) ≠ [] := trimBlanks_ne_nil List.mem_cons_self hc
  have hblank : ¬ (' ' :: cs).head?.any (fun d => !isBlank d && d != ';') = true := by
    simp [isBlank]
  rw [readLine, hbody, hmnemonic, hafter, dropComment_of_ne hline, dropComment_of_ne hrest,
    if_neg hcommand, if_neg hblank, if_neg happends]

/-- A printed line is read as the command its mnemonic makes of the operands. -/
theorem readLine_operands {m : List Char} {operands : List (List Char)} (hm : IsMnemonic m)
    (hne : operands ≠ []) (h : ∀ o ∈ operands, IsOperand o) :
    readLine (m ++ ' ' :: List.intercalate [',', ' '] operands) = readCommand m operands := by
  rw [readLine_mnemonic hm (ne_semicolon_of_mem_intercalate hne h), readOperands_intercalate hne h]

/-! ### LOAD and APPEND -/

theorem readCommand_load {operands : List (List Char)} {i : Instr}
    (h : readLoad operands = some (i, [])) : readCommand "LOAD".toList operands = some [i] := by
  unfold readCommand
  rw [if_pos rfl, h]

theorem readCommand_append {operand : List Char} {b : Byte} (h : readField 8 operand = some b) :
    readCommand "APPEND".toList [operand] = some [.append b] := by
  unfold readCommand
  rw [if_neg (by decide), if_pos rfl]
  exact congrArg (Option.map fun b => [Instr.append b]) h

/-- The operands that the disassembler prints for a LOAD. -/
def loadOperands (width : Width) (poly init xorout : Word) (refin refout : Bool) :
    List (List Char) :=
  [decimalText width.toNat, hexText poly, hexText init, hexText xorout, flagText refin,
    flagText refout]

section
variable (w : Width) (poly init xorout : Word) (ri ro : Bool)

theorem printInstr_load : printInstr (.load w poly init xorout ri ro) =
    "LOAD".toList ++ ' ' :: List.intercalate [',', ' '] (loadOperands w poly init xorout ri ro) :=
  rfl

theorem loadOperands_ne_nil : loadOperands w poly init xorout ri ro ≠ [] := List.cons_ne_nil _ _

theorem isOperand_of_mem_loadOperands :
    ∀ o ∈ loadOperands w poly init xorout ri ro, IsOperand o := by
  have hwidth : IsOperand (decimalText w.toNat) := isOperand_decimalText (by omega)
  simp only [loadOperands, List.forall_mem_cons]
  exact ⟨hwidth, isOperand_hexText poly, isOperand_hexText init, isOperand_hexText xorout,
    isOperand_flagText ri, isOperand_flagText ro, by simp⟩

theorem readLoad_loadOperands : readLoad (loadOperands w poly init xorout ri ro) =
    some (.load w poly init xorout ri ro, []) := by
  have hwidth : readField 6 (decimalText w.toNat) = some w :=
    readField_of_readNumber (readNumber_decimalText (by omega))
  simp [loadOperands, readLoad, hwidth, readField_hexText, readFlag_flagText]

theorem readLine_printInstr_load :
    readLine (printInstr (.load w poly init xorout ri ro)) =
      some [.load w poly init xorout ri ro] := by
  rw [printInstr_load, readLine_operands (by decide) (loadOperands_ne_nil w poly init xorout ri ro)
    (isOperand_of_mem_loadOperands w poly init xorout ri ro),
    readCommand_load (readLoad_loadOperands w poly init xorout ri ro)]

end

theorem printInstr_append (b : Byte) : printInstr (.append b) =
    "APPEND".toList ++ ' ' :: List.intercalate [',', ' '] [hexText (b.setWidth 32)] := by
  rw [List.intercalate_singleton]
  rfl

theorem readField_byte (b : Byte) : readField 8 (hexText (b.setWidth 32)) = some b := by
  refine readField_of_readNumber ?_
  rw [readNumber_hexText, BitVec.toNat_setWidth_of_le (by decide)]

theorem readLine_printInstr_append (b : Byte) :
    readLine (printInstr (.append b)) = some [.append b] := by
  have hoperands : ∀ o ∈ [hexText (b.setWidth 32)], IsOperand o := by
    rw [List.forall_mem_singleton]
    exact isOperand_hexText _
  rw [printInstr_append, readLine_operands (by decide) (List.cons_ne_nil _ _) hoperands,
    readCommand_append (readField_byte b)]

/-! ### The obligation -/

/-- Settles O7: a printed LOAD or APPEND reads back operand by operand; FINISH and RESET are one line each. -/
theorem printedCommandsReadBack : Obligations.PrintedCommandsReadBack := by
  intro i
  cases i with
  | load w poly init xorout ri ro => exact readLine_printInstr_load w poly init xorout ri ro
  | append b => exact readLine_printInstr_append b
  | finish => decide
  | reset => decide

end Sys2Proof.Machine
end

section
/-! PROOFS. The CALC sequence (30_encoding.md R47, 20_memory.md R36): LOAD, the APPENDs of a message and FINISH. The
engine keeps its parameters over the message, so FINISH leaves it as the LOAD did. -/

namespace Sys2Proof.Machine

theorem performAll_append_of_next {ps : List Ports} {s m : State} (h : performAll ps s = .next m)
    (qs : List Ports) : performAll (ps ++ qs) s = performAll qs m := by
  induction ps generalizing s with
  | nil =>
    cases h
    rfl
  | cons p ps ih =>
    obtain ⟨n, hp, hps⟩ := performAll_cons_eq_next h
    exact (performAll_cons_of_next hp (ps ++ qs)).trans (ih hps)

/-! ### A message on a configured engine (R66) -/

/-- The state a FINISH leaves on a configured engine (R60, R66). -/
def finishedState (s : State) : State :=
  respondResult (BitVec.ofNat 32 (finishValue s.engine)) s.engine.W.outlen
    { s with engine := s.engine.restart }

theorem exec_finish_of_configured {s : State} (h : s.engine.configured = true) :
    exec .finish s = .next (finishedState s) :=
  whenConfigured_of_configured h

@[simp] theorem finishedState_engine (s : State) :
    (finishedState s).engine = s.engine.restart := rfl

@[simp] theorem rspErr_finishedState (s : State) : (finishedState s).rspErr = 0 := rfl

@[simp] theorem rspValue_finishedState (s : State) :
    (finishedState s).rspValue = BitVec.ofNat 32 (finishValue s.engine) := rfl

@[simp] theorem rspOutlen_finishedState (s : State) :
    (finishedState s).rspOutlen = s.engine.W.outlen := rfl

/-- The APPENDs of a message and FINISH complete on a configured engine. -/
theorem performCommands_message {s : State} (h : s.engine.configured = true) (bs : List Byte) :
    performCommands (appendAll bs ++ [.finish]) s =
      .next (finishedState (bs.foldl appendedState s)) := by
  have hfinish : transact (present .finish) (bs.foldl appendedState s) =
      .next (finishedState (bs.foldl appendedState s)) :=
    (transact_present .finish _).trans
      (exec_finish_of_configured (foldl_appendedState_configured h bs))
  rw [performCommands, List.map_append, performAll_append_of_next (performCommands_appendAll h bs)]
  exact performAll_cons_of_next hfinish []

theorem foldl_appendedEngine_inv {e : Engine} (h : e.Inv) (bs : List Byte) :
    (bs.foldl appendedEngine e).Inv := by
  induction bs generalizing e with
  | nil => exact h
  | cons b bs ih => exact ih (appendedEngine_inv h b)

theorem foldl_appendedEngine_W (bs : List Byte) (e : Engine) :
    (bs.foldl appendedEngine e).W = e.W := by
  induction bs generalizing e with
  | nil => rfl
  | cons b bs ih => exact ih (appendedEngine e b)

/-- APPENDs write `crc` alone, so the restart after them is that before them. -/
theorem restart_foldl_appendedEngine (bs : List Byte) (e : Engine) :
    (bs.foldl appendedEngine e).restart = e.restart := by
  induction bs generalizing e with
  | nil => rfl
  | cons b bs ih => exact ih (appendedEngine e b)

theorem restart_loadedEngine (p : Params) : (loadedEngine p).restart = loadedEngine p := rfl

/-- R64: at a command boundary the reported value fits its port. -/
theorem toNat_finishValue {e : Engine} (h : e.Inv) (hc : e.configured = true) :
    (BitVec.ofNat 32 (finishValue e)).toNat = finishValue e := by
  obtain ⟨hlegal, -, hcrc⟩ := h hc
  exact toNat_ofNat_of_lt
    ((finishValue_lt hlegal hcrc).trans_le (two_pow_le_word (width_le_of_legal hlegal)))

/-! ### The host's stop on an error (R47) -/

theorem performCalc_of_ok {load : Instr} {s t : State} (h : exec load s = .next t)
    (hok : t.rsp = some .ok) (rest : List Instr) :
    performCalc load rest s = performCommands rest t := by
  rw [performCalc, transact_present, h]
  dsimp only
  rw [hok]

theorem performCalc_of_error {load : Instr} {s t : State} {k : ErrorKind}
    (h : exec load s = .next t) (herror : t.rsp = some (.error k)) (rest : List Instr) :
    performCalc load rest s = .next t := by
  rw [performCalc, transact_present, h]
  dsimp only
  rw [herror]

/-! ### The obligation -/

/-- Settles O47: after a legal LOAD the message is folded into the loaded engine and FINISH restarts it; after a
LOAD that raises `InvalidWidth` the host stops. -/
theorem calcComputesTheChecksum : Obligations.CalcComputesTheChecksum := by
  intro w poly init xorout ri ro bs s
  refine ⟨fun hlo hhi => ?legal, fun hwide => ?wide⟩
  case legal =>
    have hload : exec (.load w poly init xorout ri ro) s = _ :=
      execLoad_of_legal poly init xorout ri ro s hlo hhi
    have hcalc := (performCalc_of_ok hload rfl _).trans (performCommands_message
      (s := respondOk { s with engine := loadedEngine (captureParams w poly init xorout ri ro) })
      rfl bs)
    have hinv := foldl_appendedEngine_inv
      (loadedEngine_inv (captureParams_legal poly init xorout ri ro hlo hhi)) bs
    have hvalue := toNat_finishValue hinv (foldl_appendedEngine_configured bs _)
    refine ⟨_, hcalc, rspErr_finishedState _, ?value, ?outlen, ?engine⟩
    case value => rw [rspValue_finishedState, foldl_appendedState_engine, respondOk_engine, hvalue]
    case outlen =>
      rw [rspOutlen_finishedState, foldl_appendedState_engine, foldl_appendedEngine_W,
        respondOk_engine, loadedEngine_W, toNat_outlen hhi, captureParams_width]
    case engine =>
      rw [finishedState_engine, foldl_appendedState_engine, restart_foldl_appendedEngine,
        respondOk_engine, restart_loadedEngine]
  case wide =>
    have hraise : exec (.load w poly init xorout ri ro) s = raise .invalidWidth s := if_pos hwide
    exact ⟨_, performCalc_of_error hraise rfl _, rfl, rfl⟩

end Sys2Proof.Machine
end

section
/-! PROOFS. LOAD as a command (40_load.md R50, R51, R53): the two other classes of widths, and what the engine keeps of
its past after a LOAD. Parameter registers already of `width` bits are captured as they are, so a LOAD of an engine's
own parameters is a restart of its running register. -/

namespace Sys2Proof.Machine

/-! ### Widths that are not legal (R44, R50) -/

theorem execLoad_of_wide {w : Width} (poly init xorout : Word) (ri ro : Bool) (s : State)
    (hwide : 33 ≤ w.toNat) : execLoad w poly init xorout ri ro s = raise .invalidWidth s :=
  if_pos hwide

theorem execLoad_of_reserved {w : Width} (poly init xorout : Word) (ri ro : Bool) (s : State)
    (hres : w.toNat < 3) : execLoad w poly init xorout ri ro s = .refused .reservedWidth := by
  have hgate : ¬Config.maxWidth < w.toNat := by rw [Config.maxWidth]; omega
  have hreserved : reservedWidth w = true := decide_eq_true hres
  rw [execLoad, if_neg hgate, if_pos hreserved]

/-! ### Loading parameters that are already normalised (R51, R53 item 6) -/

theorem ofNat_norm_of_lt {v : Word} {n : Nat} (h : v.toNat < 2 ^ n) :
    BitVec.ofNat 32 (norm v.toNat n) = v := by
  rw [norm_of_lt h, BitVec.ofNat_toNat, BitVec.setWidth_eq]

theorem captureParams_of_legal {p : Params} (h : p.Legal) :
    captureParams p.width p.polynomial p.init p.xorOut p.refIn p.refOut = p := by
  obtain ⟨-, hpoly, hinit, hxor⟩ := h
  rw [captureParams, ofNat_norm_of_lt hpoly, ofNat_norm_of_lt hinit, ofNat_norm_of_lt hxor]

/-- R22: only `crc` tells a configured engine from the freshly loaded one of its parameters. -/
theorem loadedEngine_eq_restart {e : Engine} (hc : e.configured = true) (hwork : e.W = deriveWork e.P) :
    loadedEngine e.P = e.restart := by
  rw [loadedEngine, Engine.restart, hc, hwork]

theorem exec_reset_of_configured {s : State} (h : s.engine.configured = true) :
    exec .reset s = .next (respondOk { s with engine := s.engine.restart }) :=
  whenConfigured_of_configured h

/-! ### The obligations -/

/-- Settles O17: the invariant makes the captured parameters and the derived registers those the engine has, so both
commands leave the restarted engine. -/
theorem reloadActsAsReset : Obligations.ReloadActsAsReset := by
  rintro s ⟨hengine, -⟩ hc
  obtain ⟨hlegal, hwork, -⟩ := hengine hc
  obtain ⟨hlo, hhi⟩ := (legalWidth_iff _).mp hlegal.1
  refine ⟨_, ?load, exec_reset_of_configured hc⟩
  rw [← loadedEngine_eq_restart hc hwork]
  exact (execLoad_of_legal _ _ _ _ _ s hlo hhi).trans (by rw [captureParams_of_legal hlegal])

/-- Settles O13: the registers of the loaded engine are the captured parameters, and an operand of at most 32 bits
is stored without loss. -/
theorem loadStoresNormalisedParameters : Obligations.LoadStoresNormalisedParameters := by
  intro w poly init xorout ri ro s hlo hhi
  exact ⟨_, execLoad_of_legal poly init xorout ri ro s hlo hhi, rspErr_ok rfl, rfl, rfl, rfl,
    toNat_ofNat_norm _ hhi, toNat_ofNat_norm _ hhi, toNat_ofNat_norm _ hhi, rfl⟩

/-- Settles O15, one lemma for each class of widths. -/
theorem loadWidthClasses : Obligations.LoadWidthClasses := by
  intro w poly init xorout ri ro s
  refine ⟨fun hlo hhi => ?legal, fun hwide => ?wide, fun hres => ?reserved⟩
  case legal => exact ⟨_, execLoad_of_legal poly init xorout ri ro s hlo hhi, rspErr_ok rfl⟩
  case wide =>
    exact ⟨_, execLoad_of_wide poly init xorout ri ro s hwide, rspErr_error (k := .invalidWidth) rfl,
      rfl, rfl⟩
  case reserved => exact execLoad_of_reserved poly init xorout ri ro s hres

/-- Settles O16: the width of a successful LOAD is legal, and from any state such a LOAD leaves the engine loaded with
its operands. -/
theorem loadDropsTheOldEngine : Obligations.LoadDropsTheOldEngine := by
  intro w poly init xorout ri ro s s' t t' h hok h'
  obtain ⟨hlo, hhi, hengine⟩ := execLoad_success h hok
  cases (execLoad_of_legal poly init xorout ri ro s' hlo hhi).symm.trans h'
  exact hengine.symm

end Sys2Proof.Machine
end

section
/-! PROOFS. The value APPEND writes (41_append.md R55 to R57, R59). Below the size of the register the shift steps on
unbounded naturals agree with those of a register limited at every step, and each of them is linear over GF(2). -/

namespace Sys2Proof.Machine

/-! ### The branches as R55 writes them -/

theorem folded_eq_ite (e : Engine) (b : Byte) : e.crc.toNat ^^^ foldOf e b =
    if e.P.width.toNat ≤ 8 then e.crc.toNat ^^^ b.toNat
    else if e.P.refIn then e.crc.toNat ^^^ (b.toNat &&& e.W.mask.toNat)
    else e.crc.toNat ^^^ ((b.toNat <<< (e.P.width.toNat - 8)) &&& e.W.mask.toNat) := by
  rw [foldOf, apply_ite (e.crc.toNat ^^^ ·), apply_ite (e.crc.toNat ^^^ ·)]

theorem shiftStep_eq_ite (e : Engine) (c : Nat) : shiftStep e c =
    if c &&& e.W.check.toNat ≠ 0 then
      (if e.P.refIn then (c >>> 1) ^^^ e.W.polynomial.toNat
        else (c <<< 1) ^^^ e.W.polynomial.toNat)
    else if e.P.refIn then c >>> 1 else c <<< 1 := by
  unfold shiftStep
  cases e.P.refIn <;> rfl

/-! ### The headroom of the shift steps (R59 item 6) -/

/-- A non-reflected shift step moves the register one bit up, and the polynomial stays below that. -/
theorem shiftStep_lt_of_plain {e : Engine} {c m : Nat} (hri : e.P.refIn = false)
    (hpoly : e.W.polynomial.toNat < 2 ^ m) (hc : c < 2 ^ m) : shiftStep e c < 2 ^ (m + 1) := by
  have hshift : c <<< 1 < 2 ^ (m + 1) := Nat.shiftLeft_lt hc
  simp only [shiftStep, hri, Bool.false_eq_true, if_false]
  split
  · exact Nat.xor_lt_two_pow hshift (hpoly.trans (Nat.pow_lt_pow_succ one_lt_two))
  · exact hshift

theorem iterate_shiftStep_lt_of_plain {e : Engine} {c n : Nat} (hri : e.P.refIn = false)
    (hpoly : e.W.polynomial.toNat < 2 ^ n) (hc : c < 2 ^ n) (k : Nat) :
    (shiftStep e)^[k] c < 2 ^ (n + k) := by
  induction k with
  | zero => exact hc
  | succ k ih =>
    rw [Function.iterate_succ_apply']
    exact shiftStep_lt_of_plain hri
      (hpoly.trans_le (Nat.pow_le_pow_right two_pos (Nat.le_add_right n k))) ih

theorem iterate_shiftStep_lt_of_reflected {e : Engine} {c n : Nat} (hri : e.P.refIn = true)
    (hpoly : e.W.polynomial.toNat < 2 ^ n) (hc : c < 2 ^ n) (k : Nat) :
    (shiftStep e)^[k] c < 2 ^ n := by
  have hmax := iterate_shiftStep_lt (n := n) hri hpoly (by rwa [max_self]) k
  rwa [max_eq_left (Nat.sub_le n k)] at hmax

/-! ### The bit-serial register (R56) -/

/-- One shift step of R56: on a 32-bit register, limited at once. -/
def serialStep (e : Engine) (c : Word) : Word :=
  let shifted := if e.P.refIn then c >>> 1 else (c <<< 1) &&& e.W.mask
  if c &&& e.W.check ≠ 0 then shifted ^^^ e.W.polynomial else shifted

/-- The register of R56 with the byte folded in. -/
def serialStart (e : Engine) (b : Byte) : Word :=
  if e.P.width.toNat ≤ 8 then e.crc ^^^ b.setWidth 32
  else if e.P.refIn then e.crc ^^^ (b.setWidth 32 &&& e.W.mask)
  else e.crc ^^^ ((b.setWidth 32 <<< (e.P.width.toNat - 8)) &&& e.W.mask)

/-- R31: the byte is moved up by at most 24 bits, so folding it in a 32-bit register loses none of it. -/
theorem toNat_serialStart {e : Engine} (hhi : e.P.width.toNat ≤ 32) (b : Byte) :
    (serialStart e b).toNat = e.crc.toNat ^^^ foldOf e b := by
  have hbyte : (b.setWidth 32).toNat = b.toNat :=
    BitVec.toNat_setWidth_of_le (by decide)
  have hmoved : b.toNat <<< (e.P.width.toNat - 8) < 2 ^ 32 :=
    (Nat.shiftLeft_lt b.isLt).trans_le (two_pow_le_word (by omega))
  rw [serialStart, folded_eq_ite]
  split
  · rw [BitVec.toNat_xor, hbyte]
  · split
    · rw [BitVec.toNat_xor, BitVec.toNat_and, hbyte]
    · rw [BitVec.toNat_xor, BitVec.toNat_and, BitVec.toNat_shiftLeft, hbyte, Nat.mod_eq_of_lt hmoved]

/-- The test of `W.check` has the same outcome on the register as on its number. -/
theorem and_check_ne_zero_iff (e : Engine) (c : Word) :
    c &&& e.W.check ≠ 0 ↔ c.toNat &&& e.W.check.toNat ≠ 0 := by
  rw [ne_eq, ← BitVec.toNat_inj, BitVec.toNat_and]
  rfl

section
variable {e : Engine} (hlegal : e.P.Legal) (hwork : e.W = deriveWork e.P)
include hlegal hwork

theorem le_mask_iff (c : Nat) : c ≤ e.W.mask.toNat ↔ c < 2 ^ max e.P.width.toNat 8 :=
  hwork ▸ le_maskOf_iff (width_le_of_legal hlegal) c

/-- One step of the serial register: what a step of R55 leaves in the bits of `W.mask`. -/
theorem toNat_serialStep {c : Word} (hc : c.toNat < 2 ^ max e.P.width.toNat 8) :
    (serialStep e c).toNat = shiftStep e c.toNat % 2 ^ max e.P.width.toNat 8 := by
  have hhi := width_le_of_legal hlegal
  have hpoly := polynomial_lt hlegal hwork
  have hmask : e.W.mask.toNat = 2 ^ max e.P.width.toNat 8 - 1 := by
    rw [hwork, deriveWork_mask, toNat_maskOf hhi]
  have hsize : 2 ^ max e.P.width.toNat 8 ∣ 2 ^ 32 := Nat.pow_dvd_pow 2 (by omega)
  have hshifted : (if e.P.refIn then c >>> 1 else (c <<< 1) &&& e.W.mask).toNat =
      (if e.P.refIn then c.toNat >>> 1 else c.toNat <<< 1) % 2 ^ max e.P.width.toNat 8 := by
    cases e.P.refIn with
    | true =>
      have hdown : c.toNat >>> 1 < 2 ^ max e.P.width.toNat 8 :=
        (Nat.shiftRight_le _ 1).trans_lt hc
      simp [Nat.mod_eq_of_lt hdown]
    | false =>
      rw [if_neg Bool.false_ne_true, if_neg Bool.false_ne_true, BitVec.toNat_and,
        BitVec.toNat_shiftLeft, hmask, Nat.and_two_pow_sub_one_eq_mod, Nat.mod_mod_of_dvd _ hsize]
  simp only [serialStep, shiftStep, and_check_ne_zero_iff]
  split
  · rw [BitVec.toNat_xor, hshifted, Nat.xor_mod_two_pow, Nat.mod_eq_of_lt hpoly]
  · exact hshifted

/-- Reason of R56: the bits of the register never depend on bits above it, and for reflected input there are none. -/
theorem shiftStep_mod_size {c : Nat} (hc : e.P.refIn = true → c < 2 ^ max e.P.width.toNat 8) :
    shiftStep e (c % 2 ^ max e.P.width.toNat 8) % 2 ^ max e.P.width.toNat 8 =
      shiftStep e c % 2 ^ max e.P.width.toNat 8 := by
  have hcheck := toNat_check hlegal hwork
  cases hri : e.P.refIn with
  | true => rw [Nat.mod_eq_of_lt (hc hri)]
  | false =>
    rw [hri, if_neg Bool.false_ne_true] at hcheck
    exact shiftStep_mod_mod (by omega) hri hcheck (polynomial_lt hlegal hwork) c

/-- The serial register holds the low bits of the value of R55 after every step. -/
theorem toNat_iterate_serialStep {c : Word} (hc : c.toNat < 2 ^ max e.P.width.toNat 8) (k : Nat) :
    ((serialStep e)^[k] c).toNat = (shiftStep e)^[k] c.toNat % 2 ^ max e.P.width.toNat 8 := by
  have hpoly := polynomial_lt hlegal hwork
  induction k with
  | zero => exact (Nat.mod_eq_of_lt hc).symm
  | succ k ih =>
    have hbound : ((serialStep e)^[k] c).toNat < 2 ^ max e.P.width.toNat 8 :=
      ih ▸ Nat.mod_lt _ (Nat.two_pow_pos _)
    rw [Function.iterate_succ_apply', Function.iterate_succ_apply',
      toNat_serialStep hlegal hwork hbound, ih]
    exact shiftStep_mod_size hlegal hwork fun hri =>
      iterate_shiftStep_lt_of_reflected hri hpoly hc k

theorem toNat_iterate_serialStep_start (hcrc : e.P.Holds e.crc.toNat) (b : Byte) (k : Nat) :
    ((serialStep e)^[k] (serialStart e b)).toNat =
      (shiftStep e)^[k] (e.crc.toNat ^^^ foldOf e b) % 2 ^ max e.P.width.toNat 8 := by
  have hstart := toNat_serialStart (width_le_of_legal hlegal) b
  rw [← hstart]
  exact toNat_iterate_serialStep hlegal hwork (hstart ▸ folded_lt hlegal hwork hcrc b) k

/-- R56: both forms write the same value. -/
theorem appendedCrc_eq_serial (hcrc : e.P.Holds e.crc.toNat) (b : Byte) :
    appendedCrc e b = (serialStep e)^[8] (serialStart e b) :=
  BitVec.eq_of_toNat_eq ((toNat_appendedCrc_eq_mod hlegal hwork b).trans
    (toNat_iterate_serialStep_start hlegal hwork hcrc b 8).symm)

end

/-! ### Linearity over GF(2) (R57) -/

theorem foldOf_xor (e : Engine) (a b : Byte) : foldOf e (a ^^^ b) = foldOf e a ^^^ foldOf e b := by
  unfold foldOf
  split
  · exact BitVec.toNat_xor ..
  · split
    · rw [BitVec.toNat_xor, Nat.and_xor_distrib_right]
    · rw [BitVec.toNat_xor, Nat.shiftLeft_xor_distrib, Nat.and_xor_distrib_right]

section
variable {e : Engine} {j : Nat} (hcheck : e.W.check.toNat = 2 ^ j)
include hcheck

/-- A single check bit makes the feedback linear: of two registers with the bit set it is added twice. -/
theorem shiftStep_xor (c d : Nat) : shiftStep e (c ^^^ d) = shiftStep e c ^^^ shiftStep e d := by
  have hfeedback (x y : Bool) (p : Nat) :
      (if x ^^ y then p else 0) = (if x then p else 0) ^^^ (if y then p else 0) := by
    cases x <;> cases y <;> simp
  have hshift (r : Bool) : (if r then (c ^^^ d) >>> 1 else (c ^^^ d) <<< 1) =
      (if r then c >>> 1 else c <<< 1) ^^^ (if r then d >>> 1 else d <<< 1) := by
    cases r with
    | true => exact Nat.shiftRight_xor_distrib
    | false => exact Nat.shiftLeft_xor_distrib
  rw [shiftStep_eq hcheck, shiftStep_eq hcheck, shiftStep_eq hcheck, hshift, Nat.testBit_xor,
    hfeedback]
  ac_rfl

theorem iterate_shiftStep_xor (c d k : Nat) :
    (shiftStep e)^[k] (c ^^^ d) = (shiftStep e)^[k] c ^^^ (shiftStep e)^[k] d := by
  induction k with
  | zero => rfl
  | succ k ih => simp only [Function.iterate_succ_apply', ih, shiftStep_xor hcheck]

/-- The value APPEND writes, for one configuration and any two registers and bytes. -/
theorem appendedCrc_xor (c d : Word) (a b : Byte) :
    appendedCrc { e with crc := c ^^^ d } (a ^^^ b) =
      appendedCrc { e with crc := c } a ^^^ appendedCrc { e with crc := d } b := by
  have hfolded : (c ^^^ d).toNat ^^^ foldOf e (a ^^^ b) =
      (c.toNat ^^^ foldOf e a) ^^^ (d.toNat ^^^ foldOf e b) := by
    rw [BitVec.toNat_xor, foldOf_xor]
    ac_rfl
  have hraw : appendRaw { e with crc := c ^^^ d } (a ^^^ b) =
      appendRaw { e with crc := c } a ^^^ appendRaw { e with crc := d } b :=
    (congrArg (shiftStep e)^[8] hfolded).trans (iterate_shiftStep_xor hcheck _ _ 8)
  apply BitVec.eq_of_toNat_eq
  rw [BitVec.toNat_xor, toNat_appendedCrc, toNat_appendedCrc, toNat_appendedCrc, hraw,
    Nat.and_xor_distrib_right]

end

/-! ### A zero polynomial (R59 item 7) -/

/-- Without feedback the shift steps are one shift. -/
theorem iterate_shiftStep_of_zero {e : Engine} (hzero : e.W.polynomial = 0) (c k : Nat) :
    (shiftStep e)^[k] c = if e.P.refIn then c >>> k else c <<< k := by
  have hstep (x : Nat) : shiftStep e x = if e.P.refIn then x >>> 1 else x <<< 1 := by
    simp [shiftStep, hzero]
  induction k with
  | zero => simp
  | succ k ih =>
    rw [Function.iterate_succ_apply', ih, hstep]
    cases e.P.refIn with
    | true => exact (Nat.shiftRight_add c k 1).symm
    | false => exact (Nat.shiftLeft_add c k 1).symm

theorem toNat_appendedCrc_of_zero {e : Engine} (hlegal : e.P.Legal) (hwork : e.W = deriveWork e.P)
    (hcrc : e.P.Holds e.crc.toNat) (hzero : e.W.polynomial = 0) (b : Byte) :
    (appendedCrc e b).toNat =
      if e.P.width.toNat ≤ 8 then 0
      else if e.P.refIn then (e.crc.toNat ^^^ b.toNat) >>> 8
      else ((e.crc.toNat ^^^ (b.toNat <<< (e.P.width.toNat - 8))) <<< 8) &&& e.W.mask.toNat := by
  have hfolded := folded_lt hlegal hwork hcrc b
  have hraw : appendRaw e b = _ := iterate_shiftStep_of_zero hzero _ 8
  split
  next hw =>
    rw [max_eq_right hw] at hfolded
    rw [toNat_appendedCrc_eq_mod hlegal hwork, max_eq_right hw, hraw]
    cases e.P.refIn with
    | true => rw [if_pos rfl, Nat.shiftRight_eq_div_pow, Nat.div_eq_of_lt hfolded, Nat.zero_mod]
    | false => simp [Nat.shiftLeft_eq]
  next hw =>
    have hfold := foldOf_eq hlegal hwork b
    rw [max_eq_left (by omega)] at hfold
    split
    next hri =>
      have hdown := (Nat.shiftRight_le (e.crc.toNat ^^^ foldOf e b) 8).trans_lt hfolded
      rw [toNat_appendedCrc_eq_mod hlegal hwork, hraw, if_pos hri, Nat.mod_eq_of_lt hdown, hfold,
        if_pos hri]
    next hri => rw [toNat_appendedCrc, hraw, if_neg hri, hfold, if_neg hri]

/-! ### The obligations -/

/-- Settles O20: the serial register holds, after every step, the bits of R55's value that lie in the register, and
APPEND writes these bits after the eighth. -/
theorem appendEqualsBitSerialRegister : Obligations.AppendEqualsBitSerialRegister := by
  rintro b s ⟨hengine, -⟩ hc
  obtain ⟨hlegal, hwork, hcrc⟩ := hengine hc
  refine ⟨_, exec_append_of_configured hc b, ?crc, fun k _ => ?bound⟩
  case crc =>
    exact congrArg (fun c => { s.engine with crc := c }) (appendedCrc_eq_serial hlegal hwork hcrc b)
  case bound =>
    refine (le_mask_iff hlegal hwork _).mpr ?_
    exact (toNat_iterate_serialStep_start hlegal hwork hcrc b k).trans_lt
      (Nat.mod_lt _ (Nat.two_pow_pos _))

/-- Settles O21: the check mask of legal parameters has one bit, and a linear map takes 0 to 0. -/
theorem appendIsLinear : Obligations.AppendIsLinear := by
  intro p c d a b hlegal _ _
  have hlinear := appendedCrc_xor (e := ⟨true, p, deriveWork p, 0⟩)
    (toNat_checkOf (width_le_of_legal hlegal))
  exact ⟨hlinear c d a b, by simpa using hlinear 0 0 0 0⟩

/-- Settles O22: one lemma for each direction of the shift. -/
theorem appendHeadroomIsEightBits : Obligations.AppendHeadroomIsEightBits := by
  intro b e k hinv hc _
  obtain ⟨hlegal, hwork, hcrc⟩ := hinv hc
  have hpoly := polynomial_lt hlegal hwork
  have hfolded := folded_lt hlegal hwork hcrc b
  exact ⟨fun hri => iterate_shiftStep_lt_of_plain hri hpoly hfolded k, fun hri =>
    (le_mask_iff hlegal hwork _).mpr (iterate_shiftStep_lt_of_reflected hri hpoly hfolded k)⟩

/-- Settles O23: the folded value shifted by eight bits at once, width by width. -/
theorem appendWithZeroPolynomialOnlyShifts : Obligations.AppendWithZeroPolynomialOnlyShifts := by
  rintro b s ⟨hengine, -⟩ hc hzero
  obtain ⟨hlegal, hwork, hcrc⟩ := hengine hc
  exact ⟨_, exec_append_of_configured hc b, toNat_appendedCrc_of_zero hlegal hwork hcrc hzero b⟩

/-- Settles O19: the rule writes out the test before the direction of the shift, and the fold width by width. -/
theorem appendFoldsAndShiftsEightTimes : Obligations.AppendFoldsAndShiftsEightTimes := by
  intro b s hc
  rw [exec_append_of_configured hc, appendedState, appendedEngine, appendedCrc, appendRaw,
    folded_eq_ite, funext (shiftStep_eq_ite s.engine)]
  rfl

end Sys2Proof.Machine
end

section
/-! PROOFS. The value FINISH reports (42_finish_reset.md R60 to R65). At a command boundary the register without its
alignment has `width` bits, so `W.mask` drops nothing: the value is that register, in the asymmetric case with its
significant bits reversed (R62), exclusive-or `P.xorOut`. -/

namespace Sys2Proof.Machine

/-! ### Reversal of the significant bits (R62) -/

theorem testBit_bitLengthOf_sub_one {v : Nat} (hv : v ≠ 0) : v.testBit (bitLengthOf v - 1) = true := by
  rw [bitLengthOf_of_ne_zero hv, Nat.add_sub_cancel, Nat.testBit_log2 hv]

theorem bitLengthOf_pos {v : Nat} (hv : v ≠ 0) : 0 < bitLengthOf v := by
  rw [bitLengthOf_of_ne_zero hv]
  exact Nat.succ_pos _

/-- A value of `n` bits with the highest of them set has no fewer. -/
theorem bitLengthOf_eq_of_testBit {v n : Nat} (hv : v < 2 ^ n) (htop : v.testBit (n - 1) = true) :
    bitLengthOf v = n := by
  have hle := (bitLengthOf_le_iff v n).mpr hv
  have hge : ¬bitLengthOf v ≤ n - 1 := fun h =>
    (Nat.ge_two_pow_of_testBit htop).not_gt ((bitLengthOf_le_iff v _).mp h)
  omega

theorem reverseBits_mod_two (v : Nat) {n : Nat} (hn : 0 < n) :
    reverseBits v n % 2 = (v.testBit (n - 1)).toNat := by
  calc reverseBits v n % 2
      = ((reverseBits v n).testBit 0).toNat := by rw [Nat.toNat_testBit, pow_zero, Nat.div_one]
    _ = (v.testBit (n - 1)).toNat := by
      rw [testBit_reverseBits, decide_eq_true hn, Bool.true_and, Nat.sub_zero]

/-- Reversing the significant bits brings the highest set bit to position 0. -/
theorem reverseBits_bitLengthOf_mod_two {v : Nat} (hv : v ≠ 0) :
    reverseBits v (bitLengthOf v) % 2 = 1 := by
  rw [reverseBits_mod_two v (bitLengthOf_pos hv), testBit_bitLengthOf_sub_one hv, Bool.toNat_true]

/-- R62, U6: with its top bit clear a value is reversed in fewer than `n` bits, and lands elsewhere. -/
theorem reverseBits_bitLengthOf_ne {v n : Nat} (hv : v ≠ 0) (hn : 0 < n)
    (htop : v.testBit (n - 1) = false) : reverseBits v (bitLengthOf v) ≠ reverseBits v n := by
  intro heq
  have hodd := reverseBits_bitLengthOf_mod_two hv
  rw [heq, reverseBits_mod_two v hn, htop] at hodd
  exact absurd hodd Nat.zero_ne_one

/-! ### The value before `xorOut` (R61 to R63) -/

/-- The register as FINISH reports it but for `P.xorOut`: its significant bits are reversed in the asymmetric case. -/
def reflectedCrc (e : Engine) : Nat :=
  if e.P.refIn = false ∧ e.P.refOut = true then
    reverseBits (unalignedCrc e) (bitLengthOf (unalignedCrc e))
  else unalignedCrc e

section
variable {e : Engine} (hlegal : e.P.Legal) (hwork : e.W = deriveWork e.P)
  (hcrc : e.P.Holds e.crc.toNat)
include hlegal hcrc

theorem reflectedCrc_lt : reflectedCrc e < 2 ^ e.P.width.toNat := by
  have hc := unalignedCrc_lt hlegal hcrc
  unfold reflectedCrc
  split
  · exact (reverseBits_lt _ _).trans_le
      (Nat.pow_le_pow_right two_pos ((bitLengthOf_le_iff _ _).mpr hc))
  · exact hc

omit hcrc in
include hwork in
/-- R20: the mask keeps every bit of a value of `width` bits. -/
theorem and_mask_of_lt {c : Nat} (hc : c < 2 ^ e.P.width.toNat) : c &&& e.W.mask.toNat = c := by
  rw [hwork, deriveWork_mask, toNat_maskOf (width_le_of_legal hlegal)]
  exact Nat.and_two_pow_sub_one_of_lt_two_pow
    (hc.trans_le (Nat.pow_le_pow_right two_pos (le_max_left _ _)))

include hwork

/-- R60: in both branches the last step is the exclusive-or with `P.xorOut`. -/
theorem finishValue_eq_xor : finishValue e = reflectedCrc e ^^^ e.P.xorOut.toNat := by
  have hc := unalignedCrc_lt hlegal hcrc
  have hxor : unalignedCrc e ^^^ e.P.xorOut.toNat < 2 ^ e.P.width.toNat := by
    obtain ⟨-, -, -, hx⟩ := hlegal
    exact Nat.xor_lt_two_pow hc hx
  unfold finishValue reflectedCrc
  split
  · rw [asymmetricValue, and_mask_of_lt hlegal hwork hc]
  · rw [plainValue, and_mask_of_lt hlegal hwork hxor]

end

/-- R64: what the port `rsp_value` carries after FINISH. -/
theorem toNat_rspValue_finishedState {s : State} (h : s.engine.Inv)
    (hc : s.engine.configured = true) :
    (finishedState s).rspValue.toNat = reflectedCrc s.engine ^^^ s.engine.P.xorOut.toNat := by
  obtain ⟨hlegal, hwork, hcrc⟩ := h hc
  rw [rspValue_finishedState, toNat_finishValue h hc, finishValue_eq_xor hlegal hwork hcrc]

/-- Where the input is reflected FINISH does not read `refOut` (R63). -/
theorem finishValue_of_reflected {e : Engine} (hri : e.P.refIn = true) :
    finishValue e = plainValue e (unalignedCrc e) :=
  if_neg fun hasym => by simp [hri] at hasym

/-! ### Another `xorOut` on the same engine (R68 item 4) -/

theorem xor_two_pow_sub_one {v n : Nat} (hv : v < 2 ^ n) : v ^^^ (2 ^ n - 1) = 2 ^ n - (v + 1) := by
  refine Nat.eq_of_testBit_eq fun i => ?_
  rw [Nat.testBit_xor, Nat.testBit_two_pow_sub_one, Nat.testBit_two_pow_sub_succ hv]
  by_cases hi : i < n
  · simp [hi]
  · have habove : v.testBit i = false :=
      Nat.testBit_lt_two_pow (hv.trans_le (Nat.pow_le_pow_right two_pos (not_lt.mp hi)))
    simp [hi, habove]

/-- The engine with another final exclusive-or. -/
def Engine.withXorOut (e : Engine) (x : Word) : Engine :=
  { e with P := { e.P with xorOut := x } }

/-- No working register depends on `xorOut`, so any `xorOut` of `width` bits keeps the invariant. -/
theorem withXorOut_inv {e : Engine} (h : e.Inv) {x : Word} (hx : x.toNat < 2 ^ e.P.width.toNat) :
    (e.withXorOut x).Inv := by
  intro hc
  obtain ⟨⟨hwidth, hpoly, hinit, -⟩, hwork, hcrc⟩ := h hc
  exact ⟨⟨hwidth, hpoly, hinit, hx⟩, hwork, hcrc⟩

theorem toNat_rspValue_withXorOut {s : State} (h : s.engine.Inv)
    (hc : s.engine.configured = true) {x : Word} (hx : x.toNat < 2 ^ s.engine.P.width.toNat) :
    (finishedState { s with engine := s.engine.withXorOut x }).rspValue.toNat =
      reflectedCrc s.engine ^^^ x.toNat :=
  toNat_rspValue_finishedState (s := { s with engine := s.engine.withXorOut x })
    (withXorOut_inv h hx) hc

/-! ### The register of the empty message (R68 item 3) -/

/-- R61 undoes the alignment of R18, and for reflected input there is none. -/
theorem unalignedCrc_loadedEngine {p : Params} (hlegal : p.Legal) :
    unalignedCrc (loadedEngine p) =
      if p.refIn then reverseBits p.init.toNat p.width.toNat else p.init.toNat := by
  have hhi := width_le_of_legal hlegal
  obtain ⟨-, -, hinit, -⟩ := hlegal
  rw [unalignedCrc, loadedEngine_crc, deriveWork_init, toNat_adjust hhi hinit, loadedEngine_P]
  cases hri : p.refIn with
  | true => simp
  | false =>
    by_cases hw : p.width.toNat < 8
    · simp [hw, Nat.shiftRight_eq_div_pow]
    · simp [hw]

/-! ### The obligations -/

/-- Settles O28: the value has at most `width` bits, so its port of 32 bits carries all of it. -/
theorem finishValueFitsTheWidth : Obligations.FinishValueFitsTheWidth := by
  rintro s ⟨hengine, -⟩ hc
  obtain ⟨hlegal, -, hcrc⟩ := hengine hc
  have hvalue : (finishedState s).rspValue.toNat = finishValue s.engine :=
    toNat_finishValue hengine hc
  exact ⟨_, exec_finish_of_configured hc, rspErr_finishedState s, hvalue,
    hvalue ▸ finishValue_lt hlegal hcrc, rspOutlen_finishedState s⟩

/-- Settles O29: bit 0 of a reversal is the highest bit reversed, which is set for the significant bits of a value and
may be clear for its `width` bits. -/
theorem asymmetricFinishReversesSignificantBits :
    Obligations.AsymmetricFinishReversesSignificantBits := by
  rintro s ⟨hengine, -⟩ hc hri hro
  obtain ⟨hlegal, -, hcrc⟩ := hengine hc
  have hlt := unalignedCrc_lt hlegal hcrc
  obtain ⟨hlo, -⟩ := (legalWidth_iff _).mp hlegal.1
  have hpos : 0 < s.engine.P.width.toNat := by omega
  have hasym : reflectedCrc s.engine =
      reverseBits (unalignedCrc s.engine) (bitLengthOf (unalignedCrc s.engine)) := if_pos ⟨hri, hro⟩
  refine ⟨_, _, exec_finish_of_configured hc, ?value, rfl, ?zero, ?odd, ?topSet, ?topClear⟩
  case value => rw [toNat_rspValue_finishedState hengine hc, hasym]
  case zero => exact fun hzero => hzero ▸ reverseBits_zero_left _
  case odd => exact reverseBits_bitLengthOf_mod_two
  case topSet => exact fun htop => by rw [bitLengthOf_eq_of_testBit hlt htop]
  case topClear => exact fun hne htop => reverseBits_bitLengthOf_ne hne hpos htop

/-- Settles O34: under `xorOut = 0` FINISH reports the register as reflected, and exclusive-or with all ones takes that
from `2^width - 1`. -/
theorem allOnesXorOutInvertsTheResult : Obligations.AllOnesXorOutInvertsTheResult := by
  rintro s ⟨hengine, -⟩ hc
  obtain ⟨hlegal, -, hcrc⟩ := hengine hc
  have hlt := reflectedCrc_lt hlegal hcrc
  have hpos := Nat.two_pow_pos s.engine.P.width.toNat
  have hword := two_pow_le_word (width_le_of_legal hlegal)
  have hzero : (0 : Word).toNat = 0 := rfl
  have hones : (BitVec.ofNat 32 (2 ^ s.engine.P.width.toNat - 1)).toNat =
      2 ^ s.engine.P.width.toNat - 1 := toNat_ofNat_of_lt (by omega)
  refine ⟨_, _, exec_finish_of_configured (s := { s with engine := s.engine.withXorOut 0 }) hc,
    exec_finish_of_configured (s := { s with engine := s.engine.withXorOut _ }) hc, ?_⟩
  rw [toNat_rspValue_withXorOut hengine hc (by omega), toNat_rspValue_withXorOut hengine hc (by omega),
    hones, hzero, Nat.xor_zero, xor_two_pow_sub_one hlt]
  omega

/-- Settles O31: FINISH straight after LOAD reports the initial value, which LOAD reversed or aligned. -/
theorem emptyMessageResult : Obligations.EmptyMessageResult := by
  intro w poly init xorout ri ro s hlo hhi
  have hload : exec (.load w poly init xorout ri ro) s = _ :=
    execLoad_of_legal poly init xorout ri ro s hlo hhi
  have hlegal := captureParams_legal poly init xorout ri ro hlo hhi
  have hinit : (captureParams w poly init xorout ri ro).init.toNat = init.toNat % 2 ^ w.toNat :=
    toNat_ofNat_norm _ hhi
  have hxor : (captureParams w poly init xorout ri ro).xorOut.toNat = xorout.toNat % 2 ^ w.toNat :=
    toNat_ofNat_norm _ hhi
  refine ⟨_, (performAll_cons_of_next ((transact_present _ s).trans hload) _).trans
    (performCommands_message rfl []), rspErr_finishedState _, ?_⟩
  rw [List.foldl_nil, toNat_rspValue_finishedState (loadedEngine_inv hlegal) rfl, respondOk_engine,
    loadedEngine_P, hxor, reflectedCrc, unalignedCrc_loadedEngine hlegal, hinit]
  cases ri with
  | true => simp
  | false => cases ro <;> simp

/-- Settles O27: the reported value is the rule's own, and the guard of `configured` raises the error. -/
theorem finishReportsAndRestarts : Obligations.FinishReportsAndRestarts :=
  ⟨fun _ hc => exec_finish_of_configured hc,
    fun _ hc => ⟨_, whenConfigured_of_unconfigured hc, rfl, rfl⟩⟩

/-- Settles O30: with reflected input both engines take the branch that does not read `refOut`. -/
theorem reflectedFinishIgnoresRefOut : Obligations.ReflectedFinishIgnoresRefOut := by
  intro s ro hc hri
  refine ⟨_, _, exec_finish_of_configured hc, exec_finish_of_configured hc, ?_⟩
  have hvalue : finishValue { s.engine with P := { s.engine.P with refOut := ro } } =
      finishValue s.engine :=
    (finishValue_of_reflected (e := { s.engine with P := { s.engine.P with refOut := ro } }) hri).trans
      (finishValue_of_reflected hri).symm
  rw [finishedState, finishedState, respondResult_rsp, respondResult_rsp, hvalue]

end Sys2Proof.Machine
end

section
/-! PROOFS. The restart of the running register (42_finish_reset.md R66 to R68): after LOAD, FINISH and RESET the engine
stands at the start of a message, where a restart changes nothing. -/

namespace Sys2Proof.Machine

/-- At the start of a message `crc` holds `W.init`, and a restart writes what it holds. -/
theorem restart_of_crc_eq {e : Engine} (h : e.crc = e.W.init) : e.restart = e := by
  rw [Engine.restart, ← h]

/-- A LOAD of legal parameter registers loads these, from any state. -/
theorem exec_load_of_legal {p : Params} (hlegal : p.Legal) (s : State) :
    exec (.load p.width p.polynomial p.init p.xorOut p.refIn p.refOut) s =
      .next (respondOk { s with engine := loadedEngine p }) := by
  obtain ⟨hlo, hhi⟩ := (legalWidth_iff _).mp hlegal.1
  exact (execLoad_of_legal _ _ _ _ _ s hlo hhi).trans (by rw [captureParams_of_legal hlegal])

/-- A successful command other than APPEND leaves a configured engine at the start of a message (R66, R67). -/
theorem exec_success_restarts {i : Instr} {s t : State} (hi : ∀ b, i ≠ .append b)
    (h : exec i s = .next t) (hok : t.rspErr = 0) :
    t.engine.configured = true ∧ t.engine.crc = t.engine.W.init := by
  obtain ⟨k, hraise⟩ | ⟨w, poly, init, xorout, ri, ro, -, -, -, rfl⟩ |
    ⟨hc, ⟨b, hb, -⟩ | ⟨-, rfl⟩ | ⟨-, rfl⟩⟩ := exec_cases h
  · obtain ⟨-, hrsp, -⟩ := raise_eq_next hraise
    exact absurd (rspErr_error hrsp ▸ hok) (code_ne_zero k)
  · exact ⟨rfl, rfl⟩
  · exact absurd hb (hi b)
  · exact ⟨hc, rfl⟩
  · exact ⟨hc, rfl⟩

/-- The response to a message depends on the engine alone. -/
theorem finishedState_rsp_congr {s t : State} (h : s.engine = t.engine) :
    (finishedState s).rsp = (finishedState t).rsp := by
  rw [finishedState, finishedState, respondResult_rsp, respondResult_rsp, h]

/-! ### The obligations -/

/-- Settles O32: FINISH restarts the register, and a LOAD of the parameters the engine has leaves the restarted
engine. -/
theorem finishReturnsToTheLoadedEngine : Obligations.FinishReturnsToTheLoadedEngine := by
  rintro s s' ⟨hengine, -⟩ hc
  obtain ⟨hlegal, hwork, -⟩ := hengine hc
  exact ⟨_, _, exec_finish_of_configured hc, exec_load_of_legal hlegal s',
    (loadedEngine_eq_restart hc hwork).symm⟩

/-- Settles O33: FINISH restores the engine from which the message was begun, so the second run folds the same bytes
into the same engine. -/
theorem repeatedMessageRepeatsTheResponse : Obligations.RepeatedMessageRepeatsTheResponse := by
  intro bs s hc hcrc
  have hback : (finishedState (bs.foldl appendedState s)).engine = s.engine := by
    rw [finishedState_engine, foldl_appendedState_engine, restart_foldl_appendedEngine,
      restart_of_crc_eq hcrc]
  have hagain : (bs.foldl appendedState (finishedState (bs.foldl appendedState s))).engine =
      (bs.foldl appendedState s).engine := by
    rw [foldl_appendedState_engine, foldl_appendedState_engine, hback]
  refine ⟨_, _, performCommands_message hc bs, performCommands_message (by rw [hback, hc]) bs,
    finishedState_rsp_congr hagain, ?_⟩
  rw [finishedState_engine, finishedState_engine, hagain]

/-- Settles O36: a RESET is a restart, which changes nothing where `crc` already holds `W.init`. -/
theorem resetRestartsTheRegister : Obligations.ResetRestartsTheRegister := by
  refine ⟨fun s hc => exec_reset_of_configured hc,
    fun s hc => ⟨_, whenConfigured_of_unconfigured hc, rfl, rfl⟩, ?_⟩
  intro i s t hi h hok
  obtain ⟨hc, hcrc⟩ := exec_success_restarts hi h hok
  exact ⟨_, exec_reset_of_configured hc, rspErr_ok rfl, restart_of_crc_eq hcrc⟩

end Sys2Proof.Machine
end

section
/-! PROOFS. The digits of a result (42_finish_reset.md R65) read back in either case: the reader does not tell the cases
apart (log 10), and in upper case they are the digits of the disassembler. -/

namespace Sys2Proof.Machine

theorem digitValue_hexDigit_upper (upper : Bool) {d : Nat} (h : d < 16) :
    digitValue (hexDigit upper d) = digitValue (hexDigit true d) := by
  revert upper d
  decide

/-- Digit strings of the same digit values spell the same number. -/
theorem readDigits_map_congr {α : Type} {f g : α → Char} (base : Nat) {xs : List α}
    (h : ∀ x ∈ xs, digitValue (f x) = digitValue (g x)) (acc : Nat) :
    readDigits base acc (xs.map f) = readDigits base acc (xs.map g) := by
  induction xs generalizing acc with
  | nil => rfl
  | cons x xs ih =>
    obtain ⟨hx, hxs⟩ := List.forall_mem_cons.mp h
    simp only [List.map_cons, readDigits, hx, ih hxs]

theorem readDigits_resultDigits_upper (upper : Bool) (acc v n : Nat) :
    readDigits 16 acc (resultDigits upper v n) = readDigits 16 acc (resultDigits true v n) :=
  readDigits_map_congr 16
    (fun _ _ => digitValue_hexDigit_upper upper (Nat.mod_lt _ (by decide))) acc

/-- Settles O35: one digit for each place, and `outlen` digits spell a value below `16^outlen` in full. -/
theorem resultDigitsSpellTheValue : Obligations.ResultDigitsSpellTheValue := by
  intro upper value outlen hvalue
  refine ⟨by rw [resultDigits, List.length_map, List.length_range], ?_⟩
  rw [readDigits_resultDigits_upper, readDigits_resultDigits, Nat.zero_mul, Nat.zero_add,
    Nat.mod_eq_of_lt hvalue]

end Sys2Proof.Machine
end

section
/-! PROOFS. The host software's registry and facade (43_host_software.md R71 to R79). A registry that `register` built
repeats no name and holds only tuples that are already normalised, of width at most 32, so the LOAD of a tuple whose
width is not reserved completes with its operands as they are. -/

namespace Sys2Proof.Machine

/-! ### Looking up (R72, R75) -/

theorem existsAlgorithm_iff (reg : Registry) (name : String) :
    existsAlgorithm reg name = true ↔ name ∈ reg.map Prod.fst := by
  simp [existsAlgorithm]

theorem lookup_eq_none_of_not_exists {reg : Registry} {name : String}
    (h : existsAlgorithm reg name = false) : reg.lookup name = none := by
  simpa [existsAlgorithm] using h

theorem lookupAlgorithm_of_not_exists {reg : Registry} {name : String}
    (h : existsAlgorithm reg name = false) : lookupAlgorithm reg name = .error .unknownAlgorithm := by
  rw [lookupAlgorithm, lookup_eq_none_of_not_exists h]

theorem mem_of_lookupAlgorithm {reg : Registry} {name : String} {p : AlgorithmParameters}
    (h : lookupAlgorithm reg name = .ok p) : (name, p) ∈ reg := by
  obtain ⟨q, hlookup, -, hok⟩ | ⟨-, -, herror⟩ := lookupAlgorithm_cases reg name
  · cases hok.symm.trans h
    obtain ⟨before, after, rfl, -⟩ := List.lookup_eq_some_iff.mp hlookup
    exact List.mem_append_right _ List.mem_cons_self
  · cases herror.symm.trans h

theorem lookupAlgorithm_concat_self {reg : Registry} {name : String}
    (h : existsAlgorithm reg name = false) (p : AlgorithmParameters) :
    lookupAlgorithm (reg ++ [(name, p)]) name = .ok p := by
  rw [lookupAlgorithm, List.lookup_append, lookup_eq_none_of_not_exists h, Option.none_or,
    List.lookup_cons_self]

theorem lookupAlgorithm_concat_of_ne (reg : Registry) {name other : String} (h : other ≠ name)
    (p : AlgorithmParameters) :
    lookupAlgorithm (reg ++ [(name, p)]) other = lookupAlgorithm reg other := by
  have hmiss : List.lookup other [(name, p)] = none := by simp [h]
  rw [lookupAlgorithm, List.lookup_append, hmiss, Option.or_none, lookupAlgorithm]

/-! ### Registering (R71, R74) -/

/-- The tuple `register` stores (R74). -/
def AlgorithmParameters.normalized (p : AlgorithmParameters) : AlgorithmParameters :=
  { p with
    polynomial := normalize p.polynomial p.width
    init := normalize p.init p.width
    xorOut := normalize p.xorOut p.width }

theorem registerAlgorithm_of_new {reg : Registry} {name : String} {p : AlgorithmParameters}
    (hwidth : p.width ≤ 32) (hnew : existsAlgorithm reg name = false) :
    registerAlgorithm reg name p = .ok (reg ++ [(name, p.normalized)]) := by
  have hfits : ¬(Config.maxWidth < p.width ∧
      (Config.registerReportsWidthFirst = true ∨ existsAlgorithm reg name = false)) :=
    fun ⟨hwide, _⟩ => absurd hwide (not_lt.mpr hwidth)
  rw [registerAlgorithm, if_neg hfits, if_neg (by simp [hnew]), AlgorithmParameters.normalized]

theorem seedRegistry_concat (catalogue : List (String × AlgorithmParameters))
    (entry : String × AlgorithmParameters) :
    seedRegistry (catalogue ++ [entry]) =
      (seedRegistry catalogue).bind fun reg => registerAlgorithm reg entry.1 entry.2 := by
  rw [seedRegistry, List.foldlM_append]
  simp only [List.foldlM_cons, List.foldlM_nil, bind_pure]
  rfl

/-- What holds of the empty registry and is kept by every registration holds of every registry that was built. -/
theorem seedRegistry_induction {motive : Registry → Prop} (empty : motive [])
    (register : ∀ {reg reg' name p}, motive reg → registerAlgorithm reg name p = .ok reg' → motive reg')
    {catalogue : List (String × AlgorithmParameters)} {reg : Registry}
    (h : seedRegistry catalogue = .ok reg) : motive reg := by
  induction catalogue using List.reverseRecOn generalizing reg with
  | nil =>
    cases h
    exact empty
  | append_singleton catalogue entry ih =>
    rw [seedRegistry_concat] at h
    cases hseed : seedRegistry catalogue with
    | error e =>
      rw [hseed] at h
      cases h
    | ok before =>
      rw [hseed] at h
      exact register (ih hseed) h

/-! ### What a built registry holds (R71, R74) -/

theorem toNat_normalize_lt (v : BitVec 64) {width : Int} (h : 0 ≤ width) :
    (normalize v width).toNat < 2 ^ width.toNat := by
  rw [normalize_of_nonneg h, BitVec.toNat_ofNat]
  exact (Nat.mod_le _ _).trans_lt (norm_lt _ _)

/-- What `register` guarantees of a stored tuple. Of the operands of a negative width nothing is known (log 17). -/
def AlgorithmParameters.Accepted (p : AlgorithmParameters) : Prop :=
  p.width ≤ 32 ∧ (0 ≤ p.width → p.polynomial.toNat < 2 ^ p.width.toNat ∧
    p.init.toNat < 2 ^ p.width.toNat ∧ p.xorOut.toNat < 2 ^ p.width.toNat)

theorem accepted_normalized {p : AlgorithmParameters} (hwidth : p.width ≤ 32) :
    p.normalized.Accepted :=
  ⟨hwidth, fun h => ⟨toNat_normalize_lt _ h, toNat_normalize_lt _ h, toNat_normalize_lt _ h⟩⟩

theorem accepted_of_mem_seedRegistry {catalogue : List (String × AlgorithmParameters)}
    {reg : Registry} (h : seedRegistry catalogue = .ok reg) :
    ∀ entry ∈ reg, entry.2.Accepted := by
  refine seedRegistry_induction (motive := fun reg => ∀ entry ∈ reg, entry.2.Accepted) ?empty ?register h
  case empty => exact List.forall_mem_nil _
  case register =>
    intro reg _ name p ih hregister
    obtain ⟨hwidth, -, rfl⟩ := registerAlgorithm_eq_ok hregister
    exact List.forall_mem_append.mpr ⟨ih, List.forall_mem_singleton.mpr (accepted_normalized hwidth)⟩

theorem accepted_of_lookupAlgorithm {catalogue : List (String × AlgorithmParameters)}
    {reg : Registry} {name : String} {p : AlgorithmParameters}
    (h : seedRegistry catalogue = .ok reg) (hlookup : lookupAlgorithm reg name = .ok p) :
    p.Accepted :=
  accepted_of_mem_seedRegistry h _ (mem_of_lookupAlgorithm hlookup)

theorem nodup_names_of_seedRegistry {catalogue : List (String × AlgorithmParameters)}
    {reg : Registry} (h : seedRegistry catalogue = .ok reg) : (reg.map Prod.fst).Nodup := by
  refine seedRegistry_induction (motive := fun reg => (reg.map Prod.fst).Nodup) ?empty ?register h
  case empty => exact List.nodup_nil
  case register =>
    intro reg _ name p ih hregister
    obtain ⟨-, hfree, rfl⟩ := registerAlgorithm_eq_ok hregister
    have hnew : name ∉ reg.map Prod.fst := by
      rw [← existsAlgorithm_iff, hfree]
      exact Bool.false_ne_true
    rw [List.map_append, List.map_singleton, ← List.concat_eq_append]
    exact (List.nodup_concat _ _).mpr ⟨hnew, ih⟩

/-! ### Loading a registered tuple (R78) -/

/-- The fields of a tuple as the LOAD of R78 presents them. -/
def AlgorithmParameters.params (p : AlgorithmParameters) : Params where
  width := BitVec.ofNat 6 p.width.toNat
  polynomial := p.polynomial.setWidth 32
  init := p.init.setWidth 32
  xorOut := p.xorOut.setWidth 32
  refIn := p.refIn
  refOut := p.refOut

theorem toNat_params_width {p : AlgorithmParameters} (h : p.width ≤ 32) :
    p.params.width.toNat = p.width.toNat := by
  rw [AlgorithmParameters.params, BitVec.toNat_ofNat, Nat.mod_eq_of_lt (by omega)]

theorem params_legal {p : AlgorithmParameters} (h : p.Accepted) (hlo : 3 ≤ p.width) :
    p.params.Legal := by
  obtain ⟨hhi, hoperands⟩ := h
  obtain ⟨hpoly, hinit, hxor⟩ := hoperands (by omega)
  have hcut {v : BitVec 64} (hv : v.toNat < 2 ^ p.width.toNat) :
      (v.setWidth 32).toNat < 2 ^ p.params.width.toNat := by
    rw [toNat_params_width hhi, BitVec.toNat_setWidth]
    exact (Nat.mod_le _ _).trans_lt hv
  refine ⟨(legalWidth_iff _).mpr ?_, hcut hpoly, hcut hinit, hcut hxor⟩
  rw [toNat_params_width hhi]
  omega

theorem initializeEngine_of_lookup {reg : Registry} {name : String} {p : AlgorithmParameters}
    (h : lookupAlgorithm reg name = .ok p) : initializeEngine reg name = .ok (loadOf p) := by
  rw [initializeEngine, h]
  rfl

theorem initializeEngine_of_not_exists {reg : Registry} {name : String}
    (h : existsAlgorithm reg name = false) :
    initializeEngine reg name = .error .unknownAlgorithm := by
  rw [initializeEngine, lookupAlgorithm_of_not_exists h]
  rfl

/-- A LOAD issued for a name (R78) is that of its registered tuple. -/
theorem initializeEngine_eq_ok_some {reg : Registry} {name : String} {load : Instr}
    (h : initializeEngine reg name = .ok (some load)) :
    ∃ p, lookupAlgorithm reg name = .ok p ∧ loadOf p = some load := by
  obtain ⟨p, -, -, hok⟩ | ⟨-, hfree, -⟩ := lookupAlgorithm_cases reg name
  · exact ⟨p, hok, Except.ok.inj ((initializeEngine_of_lookup hok).symm.trans h)⟩
  · cases (initializeEngine_of_not_exists hfree).symm.trans h

/-! ### Calculating (R76, R79) -/

/-- A LOAD that responds OK, the message and FINISH end with the text of the folded engine's value. -/
theorem resultOf_performCalc {load : Instr} {s t : State} (h : exec load s = .next t)
    (hok : t.rsp = some .ok) (hc : t.engine.configured = true) (data : HostData) :
    resultOf (performCalc load (messageCommands data) s) =
      some (resultText (BitVec.ofNat 32 (finishValue (data.bytes.foldl appendedEngine t.engine)))
        t.engine.W.outlen) := by
  rw [performCalc_of_ok h hok, messageCommands, appendData, performCommands_message hc]
  simp only [resultOf, finishedState, respondResult_rsp, Option.bind_some, Response.text,
    foldl_appendedState_engine, foldl_appendedEngine_W]

/-- `calculate` sees of its operand the bytes alone. -/
theorem calculateText_congr {a b : HostData} (h : a.bytes = b.bytes) (reg : Registry)
    (name : String) (s : State) : calculateText reg name a s = calculateText reg name b s := by
  simp only [calculateText, messageCommands, appendData, h]

/-- R76: the check string has the ASCII codes of its nine digits. -/
theorem bytes_checkString : (HostData.text checkString).bytes =
    [0x31, 0x32, 0x33, 0x34, 0x35, 0x36, 0x37, 0x38, 0x39] := by
  rw [bytes_text, textBytes, if_pos rfl]
  decide

/-! ### The obligations -/

/-- Settles O51: a success has a width of at most 32 and a new name, and with both the normalised tuple is put at the
end, where it hides no other. -/
theorem registerAddsOneNewName : Obligations.RegisterAddsOneNewName := by
  intro reg name p
  refine ⟨fun hwide reg' h => ?wide, fun hexists reg' h => ?duplicate, fun hwidth hnew => ?new⟩
  case wide =>
    obtain ⟨hwidth, -, -⟩ := registerAlgorithm_eq_ok h
    exact absurd hwide (not_lt.mpr hwidth)
  case duplicate =>
    obtain ⟨-, hfree, -⟩ := registerAlgorithm_eq_ok h
    simp [hfree] at hexists
  case new =>
    exact ⟨_, registerAlgorithm_of_new hwidth hnew, lookupAlgorithm_concat_self hnew _,
      fun other hother => lookupAlgorithm_concat_of_ne reg hother _⟩

/-- Settles O52: sorting permutes the names of the registry, and these are not repeated since `register` refuses a name
that exists. -/
theorem registeredNamesAreSortedAndExist : Obligations.RegisteredNamesAreSortedAndExist := by
  intro catalogue reg le htotal htrans hseed
  have : Std.Total fun a b => le a b = true := ⟨htotal⟩
  have : IsTrans String fun a b => le a b = true := ⟨htrans⟩
  exact ⟨fun name => (List.mem_insertionSort _).trans (existsAlgorithm_iff reg name).symm,
    (List.perm_insertionSort _ _).nodup_iff.mpr (nodup_names_of_seedRegistry hseed),
    List.pairwise_insertionSort _ _⟩

/-- Settles O53: an accepted tuple of width 3 or more has legal parameter registers, so its LOAD leaves them loaded and
the message completes. -/
theorem calculateReportsTheChecksumText : Obligations.CalculateReportsTheChecksumText := by
  refine ⟨fun catalogue reg name p data s hseed hlookup hlo => ?registered,
    fun reg name data s hfree => ?unknown⟩
  case registered =>
    have haccepted := accepted_of_lookupAlgorithm hseed hlookup
    have ⟨hhi, _⟩ := haccepted
    have hfield := toNat_params_width hhi
    have htext := resultOf_performCalc (exec_load_of_legal (params_legal haccepted hlo) s) rfl rfl data
    rw [respondOk_engine, loadedEngine_W, deriveWork_outlen, hfield] at htext
    rw [calculateText, initializeEngine_of_lookup hlookup, loadOf_of_nonneg (by omega)]
    exact congrArg Except.ok htext
  case unknown =>
    rw [calculateText, calculateCommands, initializeEngine_of_not_exists hfree]
    exact ⟨rfl, rfl⟩

/-- Settles O54: the width of an accepted tuple is at most 32 and so passes the gate of LOAD. -/
theorem initializeNeverMeetsInvalidWidth : Obligations.InitializeNeverMeetsInvalidWidth := by
  intro catalogue reg name load s t hseed hinit hexec
  obtain ⟨p, hlookup, hload⟩ := initializeEngine_eq_ok_some hinit
  obtain ⟨hwidth, -⟩ := accepted_of_lookupAlgorithm hseed hlookup
  obtain hneg | hnonneg := lt_or_ge p.width 0
  · cases (loadOf_of_neg hneg).symm.trans hload
  cases (loadOf_of_nonneg hnonneg).symm.trans hload
  obtain ⟨hwide, -⟩ | ⟨-, -, rfl⟩ := execLoad_cases hexec
  · have hfield : (BitVec.ofNat 6 p.width.toNat).toNat = p.width.toNat := toNat_params_width hwidth
    omega
  · rw [rspErr_ok rfl]
    decide

/-- Settles O55: the bytes of the check string are those of the buffer, and nothing else of an operand is read. -/
theorem checkStringIsItsNineBytes : Obligations.CheckStringIsItsNineBytes :=
  ⟨bytes_checkString, fun reg name s =>
    ⟨congrArg appendAll bytes_checkString, calculateText_congr bytes_checkString reg name s⟩⟩

end Sys2Proof.Machine
end

section
/-! PROOFS. The errors of the block (60_exceptions.md R82 to R90). Which error a command responds with is read off its
width gate or its guard of `configured`; and what a command answers depends on the engine alone, so a command that
only responded leaves no trace. -/

namespace Sys2Proof.Machine

/-! ### Which command responds with which error (R82, R83, R86) -/

theorem execLoad_rspErr {w : Width} {poly init xorout : Word} {ri ro : Bool} {s t : State}
    (h : execLoad w poly init xorout ri ro s = .next t) :
    (32 < w.toNat ∧ t.rspErr = 1) ∨ (3 ≤ w.toNat ∧ w.toNat ≤ 32 ∧ t.rspErr = 0) := by
  obtain ⟨hwide, hraise⟩ | ⟨hlo, hhi, rfl⟩ := execLoad_cases h
  · obtain ⟨-, hrsp, -⟩ := raise_eq_next hraise
    exact .inl ⟨hwide, rspErr_error hrsp⟩
  · exact .inr ⟨hlo, hhi, rspErr_ok rfl⟩

theorem exec_of_unconfigured {i : Instr} {s : State} (hi : ∀ w p n x ri ro, i ≠ .load w p n x ri ro)
    (hs : s.engine.configured = false) : exec i s = raise .notConfigured s := by
  cases i with
  | load w p n x ri ro => exact absurd rfl (hi w p n x ri ro)
  | append b => exact whenConfigured_of_unconfigured hs
  | finish => exact whenConfigured_of_unconfigured hs
  | reset => exact whenConfigured_of_unconfigured hs

theorem whenConfigured_rspErr {s a t : State} (h : whenConfigured s (.next a) = .next t)
    (hok : a.rspErr = 0) :
    (s.engine.configured = true ∧ t.rspErr = 0) ∨ (s.engine.configured = false ∧ t.rspErr = 2) := by
  obtain ⟨hc, hact⟩ | ⟨hc, hraise⟩ := whenConfigured_cases h
  · cases hact
    exact .inl ⟨hc, hok⟩
  · obtain ⟨-, hrsp, -⟩ := raise_eq_next hraise
    exact .inr ⟨hc, rspErr_error hrsp⟩

/-- APPEND, FINISH and RESET respond OK or `NotConfigured`, as the flag says (R83). -/
theorem exec_rspErr_of_not_load {i : Instr} {s t : State}
    (hi : ∀ w p n x ri ro, i ≠ .load w p n x ri ro) (h : exec i s = .next t) :
    (s.engine.configured = true ∧ t.rspErr = 0) ∨ (s.engine.configured = false ∧ t.rspErr = 2) := by
  cases i with
  | load w p n x ri ro => exact absurd rfl (hi w p n x ri ro)
  | append b => exact whenConfigured_rspErr h (rspErr_ok rfl)
  | finish => exact whenConfigured_rspErr h (rspErr_result rfl)
  | reset => exact whenConfigured_rspErr h (rspErr_ok rfl)

/-- The row R86 gives APPEND, FINISH and RESET. -/
theorem errorResponses_of_not_load {i : Instr} {s t : State}
    (hi : ∀ w p n x ri ro, i ≠ .load w p n x ri ro) (h : exec i s = .next t) :
    (t.rspErr = 0 ↔ s.engine.configured = true) ∧ t.rspErr ≠ 1 ∧
      (t.rspErr = 2 ↔ s.engine.configured = false) := by
  obtain ⟨hc, herr⟩ | ⟨hc, herr⟩ := exec_rspErr_of_not_load hi h <;> simp [hc, herr]

/-! ### What a command answers depends on the engine alone (R84) -/

/-- An error response writes nothing of the engine (R84), and every other command responds OK. -/
theorem engine_eq_of_rspErr_ne_zero {i : Instr} {s t : State} (h : exec i s = .next t)
    (herr : t.rspErr ≠ 0) : t.engine = s.engine := by
  obtain ⟨k, hraise⟩ | ⟨w, poly, init, xorout, ri, ro, -, -, -, rfl⟩ |
    ⟨-, ⟨b, -, rfl⟩ | ⟨-, rfl⟩ | ⟨-, rfl⟩⟩ := exec_cases h
  · exact (raise_eq_next hraise).1
  · exact absurd (rspErr_ok rfl) herr
  · exact absurd (rspErr_ok rfl) herr
  · exact absurd (rspErr_result rfl) herr
  · exact absurd (rspErr_ok rfl) herr

theorem whenConfigured_congr_engine {s s' t a b : State} (hengine : s'.engine = s.engine)
    (h : whenConfigured s (.next a) = .next t) (hab : b.engine = a.engine) (hrsp : b.rsp = a.rsp) :
    ∃ t', whenConfigured s' (.next b) = .next t' ∧ t'.engine = t.engine ∧ t'.rsp = t.rsp := by
  obtain ⟨hc, hact⟩ | ⟨hc, hraise⟩ := whenConfigured_cases h
  · cases hact
    exact ⟨b, whenConfigured_of_configured (hengine ▸ hc), hab, hrsp⟩
  · cases hraise
    exact ⟨_, whenConfigured_of_unconfigured (hengine ▸ hc), hengine, rfl⟩

theorem exec_congr_engine {i : Instr} {s s' t : State} (hengine : s'.engine = s.engine)
    (h : exec i s = .next t) :
    ∃ t', exec i s' = .next t' ∧ t'.engine = t.engine ∧ t'.rsp = t.rsp := by
  cases i with
  | load w poly init xorout ri ro =>
    obtain ⟨hwide, hraise⟩ | ⟨hlo, hhi, rfl⟩ := execLoad_cases h
    · cases hraise
      exact ⟨_, execLoad_of_wide poly init xorout ri ro s' hwide, hengine, rfl⟩
    · exact ⟨_, execLoad_of_legal poly init xorout ri ro s' hlo hhi, rfl, rfl⟩
  | append b =>
    exact whenConfigured_congr_engine hengine h (congrArg (appendedEngine · b) hengine) rfl
  | finish =>
    exact whenConfigured_congr_engine hengine h (congrArg Engine.restart hengine)
      (finishedState_rsp_congr hengine)
  | reset => exact whenConfigured_congr_engine hengine h (congrArg Engine.restart hengine) rfl

/-- A sample that is not idle writes the response anew. -/
theorem transact_congr_engine {p : Ports} {s s' t : State} (hengine : s'.engine = s.engine)
    (hp : p.rst = true ∨ p.cmdValid = true) (h : transact p s = .next t) :
    ∃ t', transact p s' = .next t' ∧ t'.engine = t.engine ∧ t'.rsp = t.rsp := by
  obtain ⟨hrst, rfl⟩ | ⟨hrst, hvalid, hexec⟩ | ⟨hrst, hidle, -⟩ := transact_cases h
  · exact ⟨powerOnReset s', if_pos hrst, rfl, rfl⟩
  · rw [transact_of_command hrst hvalid]
    exact exec_congr_engine hengine hexec
  · simp [hrst, hidle] at hp

/-- The response at the start matters to a run only if the run is empty. -/
theorem performAll_congr_engine {ps : List Ports} {s s' t : State} (hengine : s'.engine = s.engine)
    (hrsp : ps = [] → s'.rsp = s.rsp) (hps : ∀ p ∈ ps, p.rst = true ∨ p.cmdValid = true)
    (h : performAll ps s = .next t) :
    ∃ t', performAll ps s' = .next t' ∧ t'.engine = t.engine ∧ t'.rsp = t.rsp := by
  induction ps generalizing s s' with
  | nil =>
    cases h
    exact ⟨s', rfl, hengine, hrsp rfl⟩
  | cons p ps ih =>
    obtain ⟨hp, hps⟩ := List.forall_mem_cons.mp hps
    obtain ⟨m, hm, hrest⟩ := performAll_cons_eq_next h
    obtain ⟨m', hm', hengine', hrsp'⟩ := transact_congr_engine hengine hp hm
    rw [performAll_cons_of_next hm']
    exact ih hengine' (fun _ => hrsp') hps hrest

/-! ### The obligations -/

/-- Settles O39: the failed command left the engine as it was, and a run from there depends on nothing else. -/
theorem errorsLeaveNoTrace : Obligations.ErrorsLeaveNoTrace := by
  intro i s t h herr
  have hengine : t.engine = s.engine := engine_eq_of_rspErr_ne_zero h herr
  exact ⟨hengine, fun ps u hrun hne hps =>
    performAll_congr_engine hengine (fun hnil => absurd hnil hne) hps hrun⟩

/-- Settles O37: an unconfigured engine sends every command but LOAD to the error, and of the responses of LOAD none
is 2. -/
theorem notConfiguredIsRaisedExactlyWhenUnconfigured :
    Obligations.NotConfiguredIsRaisedExactlyWhenUnconfigured := by
  refine ⟨fun i s hs hi => ⟨_, exec_of_unconfigured hi hs, rfl,
    rspErr_error (k := .notConfigured) rfl, rfl, rfl⟩, ?_⟩
  intro i s t h herr
  have hi : ∀ w p n x ri ro, i ≠ .load w p n x ri ro := by
    rintro w p n x ri ro rfl
    obtain ⟨-, hwide⟩ | ⟨-, -, hok⟩ := execLoad_rspErr h
    · simp [hwide] at herr
    · simp [hok] at herr
  obtain ⟨-, -, hcode⟩ := errorResponses_of_not_load hi h
  exact ⟨hcode.mp herr, hi⟩

/-- Settles O38: the width gate decides the response of LOAD, and the flag that of the other commands. -/
theorem errorResponsesByCommand : Obligations.ErrorResponsesByCommand := by
  intro i s t h
  cases i with
  | load w poly init xorout ri ro =>
    have hport : w.toNat < 64 := w.isLt
    obtain ⟨hwide, herr⟩ | ⟨hlo, hhi, herr⟩ := execLoad_rspErr h
    · rw [herr]
      exact ⟨iff_of_false (by decide) (by omega), iff_of_true rfl (by omega), by decide⟩
    · rw [herr]
      exact ⟨iff_of_true rfl ⟨hlo, hhi⟩, iff_of_false (by decide) (by omega), by decide⟩
  | append b => exact errorResponses_of_not_load (by intros; nofun) h
  | finish => exact errorResponses_of_not_load (by intros; nofun) h
  | reset => exact errorResponses_of_not_load (by intros; nofun) h

end Sys2Proof.Machine
end

section
/-! PROOFS. Engines side by side (60_exceptions.md R91): a sample acts on the engine it is addressed to and leaves the
others alone. -/

namespace Sys2Proof.Machine

theorem samplesFor_cons_self (k : Nat) (p : Ports) (sched : List (Nat × Ports)) :
    samplesFor k ((k, p) :: sched) = p :: samplesFor k sched := by
  simp [samplesFor]

theorem samplesFor_cons_of_ne {j k : Nat} (h : j ≠ k) (p : Ports) (sched : List (Nat × Ports)) :
    samplesFor k ((j, p) :: sched) = samplesFor k sched := by
  simp [samplesFor, h]

/-- A sample to an engine that is there is a transaction of that engine; one to a missing engine does nothing
(log 9). -/
theorem System.transact_cases {j : Nat} {p : Ports} {sys sys' : System}
    (h : System.transact j p sys = .next sys') :
    (sys.instances[j]? = none ∧ sys' = sys) ∨
      ∃ s t, sys.instances[j]? = some s ∧ Machine.transact p s = .next t ∧
        sys' = { instances := sys.instances.set j t } := by
  unfold System.transact at h
  split at h
  · cases h
    exact .inl ⟨‹_›, rfl⟩
  · split at h
    · cases h
      exact .inr ⟨_, _, ‹_›, ‹_›, rfl⟩
    · cases h
    · cases h

theorem System.transact_self {k : Nat} {p : Ports} {sys sys' : System} {s : State}
    (h : System.transact k p sys = .next sys') (hs : sys.instances[k]? = some s) :
    ∃ t, Machine.transact p s = .next t ∧ sys'.instances[k]? = some t := by
  obtain ⟨hnone, -⟩ | ⟨s', t, hs', ht, rfl⟩ := System.transact_cases h
  · simp [hs] at hnone
  · cases hs.symm.trans hs'
    obtain ⟨hk, -⟩ := List.getElem?_eq_some_iff.mp hs
    exact ⟨t, ht, List.getElem?_set_self hk⟩

theorem System.transact_of_ne {j k : Nat} {p : Ports} {sys sys' : System}
    (h : System.transact j p sys = .next sys') (hjk : j ≠ k) :
    sys'.instances[k]? = sys.instances[k]? := by
  obtain ⟨-, rfl⟩ | ⟨s, t, -, -, rfl⟩ := System.transact_cases h
  · rfl
  · exact List.getElem?_set_ne hjk

theorem System.performAll_cons_eq_next {j : Nat} {p : Ports} {sched : List (Nat × Ports)}
    {sys sys' : System} (h : System.performAll ((j, p) :: sched) sys = .next sys') :
    ∃ mid, System.transact j p sys = .next mid ∧ System.performAll sched mid = .next sys' := by
  rw [System.performAll] at h
  split at h
  · exact ⟨_, ‹_›, h⟩
  · cases h
  · cases h

/-- Settles O46, by induction on the schedule: its first sample is the engine's own or leaves that engine as it was. -/
theorem instancesAreIndependent : Obligations.InstancesAreIndependent := by
  intro sched sys sys' k s hrun hs
  induction sched generalizing sys s with
  | nil =>
    cases hrun
    exact ⟨s, rfl, hs⟩
  | cons entry sched ih =>
    obtain ⟨j, p⟩ := entry
    obtain ⟨mid, hhead, hrest⟩ := System.performAll_cons_eq_next hrun
    obtain rfl | hjk := eq_or_ne j k
    · obtain ⟨m, hm, hmid⟩ := System.transact_self hhead hs
      rw [samplesFor_cons_self, performAll_cons_of_next hm]
      exact ih mid m hrest hmid
    · rw [samplesFor_cons_of_ne hjk]
      exact ih mid s hrest ((System.transact_of_ne hhead hjk).trans hs)

end Sys2Proof.Machine
end

section
/-! PROOFS. Power-on reset and progress (70_reset_and_hazards.md R93, R100): after a reset only LOAD can succeed, and
nothing but a LOAD of reserved width stops the block, so inputs without one run to their end. -/

namespace Sys2Proof.Machine

/-! ### Power-on reset (R93) -/

theorem transact_of_rst {p : Ports} (hrst : p.rst = true) (s : State) :
    transact p s = .next (powerOnReset s) :=
  if_pos hrst

/-- R83, R93: an unconfigured engine responds OK to no command but LOAD. -/
theorem exists_load_of_rspErr_eq_zero {i : Instr} {s t : State} (hs : s.engine.configured = false)
    (h : exec i s = .next t) (hok : t.rspErr = 0) : ∃ w q n x ri ro, i = .load w q n x ri ro := by
  by_contra hload
  obtain ⟨hiff, -⟩ := errorResponses_of_not_load
    (fun w q n x ri ro hi => hload ⟨w, q, n, x, ri, ro, hi⟩) h
  exact absurd (hiff.mp hok) (by simp [hs])

/-! ### Which commands are answered (R37, R44, R100) -/

theorem wellFormed_load_iff {w : Width} {poly init xorout : Word} {ri ro : Bool} :
    (Instr.load w poly init xorout ri ro).wellFormed = true ↔ 3 ≤ w.toNat := by
  rw [Instr.wellFormed, Bool.not_eq_true', reservedWidth, decide_eq_false_iff_not, Nat.not_lt,
    Config.minWidth]

/-- A guarded command goes on whatever the flag is (R83). -/
theorem whenConfigured_next (s a : State) : ∃ t, whenConfigured s (.next a) = .next t := by
  cases hc : s.engine.configured with
  | true => exact ⟨a, whenConfigured_of_configured hc⟩
  | false => exact ⟨_, whenConfigured_of_unconfigured hc⟩

theorem exec_of_wellFormed {i : Instr} (hi : i.wellFormed = true) (s : State) :
    ∃ t, exec i s = .next t := by
  cases i with
  | load w poly init xorout ri ro =>
    have hlo : 3 ≤ w.toNat := wellFormed_load_iff.mp hi
    obtain hwide | hhi := Nat.lt_or_ge 32 w.toNat
    · exact ⟨_, execLoad_of_wide poly init xorout ri ro s hwide⟩
    · exact ⟨_, execLoad_of_legal poly init xorout ri ro s hlo hhi⟩
  | append b => exact whenConfigured_next s _
  | finish => exact whenConfigured_next s _
  | reset => exact whenConfigured_next s _

theorem exec_of_illFormed {i : Instr} (hi : i.wellFormed = false) (s : State) :
    exec i s = .refused .reservedWidth := by
  cases i with
  | load w poly init xorout ri ro =>
    have hres : ¬3 ≤ w.toNat := fun hlo => by simp [wellFormed_load_iff.mpr hlo] at hi
    exact execLoad_of_reserved poly init xorout ri ro s (by omega)
  | append b => cases hi
  | finish => cases hi
  | reset => cases hi

/-- Every command that goes on has responded (R37, R40). -/
theorem exec_rspValid {i : Instr} {s t : State} (h : exec i s = .next t) : t.rspValid = true := by
  obtain ⟨k, hraise⟩ | ⟨w, poly, init, xorout, ri, ro, -, -, -, rfl⟩ |
    ⟨-, ⟨b, -, rfl⟩ | ⟨-, rfl⟩ | ⟨-, rfl⟩⟩ := exec_cases h
  · obtain ⟨-, hrsp, -⟩ := raise_eq_next hraise
    exact rspValid_some hrsp
  · exact rspValid_some rfl
  · exact rspValid_some rfl
  · exact rspValid_some rfl
  · exact rspValid_some rfl

theorem transact_of_safe {p : Ports} (hp : p.Safe) (s : State) : ∃ t, transact p s = .next t := by
  cases hrst : p.rst with
  | true => exact ⟨_, transact_of_rst hrst s⟩
  | false =>
    cases hvalid : p.cmdValid with
    | true =>
      rw [transact_of_command hrst hvalid]
      exact exec_of_wellFormed (hp hrst hvalid) s
    | false => exact ⟨s, transact_of_idle hrst hvalid s⟩

/-! ### The obligations -/

/-- Settles O45, by induction on the samples: each goes on to a state, and a transaction keeps the invariant. -/
theorem safeInputsRunToTheEnd : Obligations.SafeInputsRunToTheEnd := by
  intro ps s hps
  induction ps generalizing s with
  | nil => exact ⟨s, rfl, id⟩
  | cons p ps ih =>
    obtain ⟨hp, hps⟩ := List.forall_mem_cons.mp hps
    obtain ⟨m, hm⟩ := transact_of_safe hp s
    obtain ⟨t, hrun, hinv⟩ := ih m hps
    exact ⟨t, (performAll_cons_of_next hm ps).trans hrun, fun hs => hinv (transact_inv hs hm)⟩

/-- Settles O10: the step with `rst` is the power-on reset, which leaves an unconfigured engine. -/
theorem powerOnResetUnconfigures : Obligations.PowerOnResetUnconfigures := by
  refine ⟨⟨rfl, rfl⟩, fun s p rest hinputs hrst => ?_⟩
  refine ⟨powerOnReset { s with inputs := rest }, ?step, rfl, rfl, rfl, ?onlyLoad⟩
  case step => rw [step_eq_transact hinputs, transact_of_rst hrst]
  case onlyLoad => exact fun i u => exists_load_of_rspErr_eq_zero rfl

/-- Settles O40: the width gate of LOAD is the one place where a command can be refused. -/
theorem everyCommandIsAnsweredOrRefused : Obligations.EveryCommandIsAnsweredOrRefused := by
  refine fun i s => ⟨fun hi => ?_, fun hi => exec_of_illFormed hi s⟩
  obtain ⟨t, h⟩ := exec_of_wellFormed hi s
  exact ⟨t, h, exec_rspValid h⟩

/-- Settles O44: the invariant asks nothing of an unconfigured engine (R26), and no response is pending. -/
theorem resetMeetsTheInvariant : Obligations.ResetMeetsTheInvariant :=
  ⟨fun hconfigured => absurd hconfigured (Bool.eq_false_iff.mp reset_configured), nofun⟩

end Sys2Proof.Machine
end
